-- ==== Sys2Proof/Word.lean ====
section
/-! DEFINITION. The word and byte types (00_scope.md R8, R10): every word is an unsigned 32-bit value, every byte an unsigned 8-bit value. -/

namespace Sys2Proof

/-- A 32-bit unsigned word (00_scope.md R8). `+` on it is addition modulo 2^32 (40_mixing.md R100). -/
abbrev Word := BitVec 32

/-- A byte (00_scope.md R10). -/
abbrev Byte := BitVec 8

end Sys2Proof
end

