-- ==== Sys2Proof/Config.lean ====
section
/-! DEFINITION. What the spec leaves open: the free value of a data read while busy (20_memory.md R62) and the two open parameters P_BASE and P_LAT_BLOCK (00_scope.md R9). None has a value that a proof can see. -/

namespace Sys2Proof

/-- FREE VALUE. The n-th unspecified value `Unspec` that a read of BUF, TOTAL, H or DIGEST while busy returns (20_memory.md R62, 93_implementation_defined.md U1). `State.draws` supplies a fresh n at every such read, so two reads need not agree. Log 4. -/
opaque Config.unspec : Nat → Word

/-- OPEN PARAMETER `P_BASE` (00_scope.md R9, U2): the platform address of the register window. The block never sees it. Log 9. -/
opaque Config.pBase : Nat

/-- One less than `P_LAT_BLOCK`, so that the parameter is at least 1. Log 10. -/
opaque Config.pLatBlockLess1 : Nat

/-- OPEN PARAMETER `P_LAT_BLOCK ≥ 1` (00_scope.md R9, 70_reset_and_hazards.md R230, U3): cycles per compression. The machine never reads it. Log 10. -/
def Config.pLatBlock : Nat := Config.pLatBlockLess1 + 1

end Sys2Proof
end

