-- ==== Sys2Proof/Syntax.lean ====
section
/-! DEFINITION. The five commands of spec/opcode_table.json (30_encoding.md R82): the block's instructions. -/

namespace Sys2Proof

/-- A command, one constructor per row of the opcode table. FINAL carries its 7-bit field NBYTES as it stands in the word (30_encoding.md R81, R83). -/
inductive Instr where
  /-- NOP (44_control.md R171). -/
  | nop
  /-- INIT (44_control.md R172). -/
  | init
  /-- BLOCK (42_compression.md R138, R139). -/
  | block
  /-- FINAL n (43_finalization.md R158, R159), n the field NBYTES. -/
  | final (n : BitVec 7)
  /-- CLRERR (44_control.md R173). -/
  | clrerr
deriving DecidableEq, Repr

end Sys2Proof
end

