-- ==== Sys2Proof/WellFormed.lean ====
section
/-! DEFINITION. Which terms of Instr are commands of the block: FINAL's valid length is at most 64 (30_encoding.md R84, 43_finalization.md R150). -/

namespace Sys2Proof

/-- The commands with a legal encoding. The only check is FINAL's n ≤ 64: n in 65..127 is illegal (30_encoding.md R85). -/
def Instr.wellFormed : Instr → Bool
  | .nop => true
  | .init => true
  | .block => true
  | .final n => decide (n.toNat ≤ 64)
  | .clrerr => true

end Sys2Proof
end

