-- ==== Sys2Proof/Decode.lean ====
section
/-! DEFINITION. The command word (30_encoding.md R81 to R85, R90): its fields, the legality predicate, the decoder, and after it the encoder. -/

namespace Sys2Proof

/-- Field OP, bits 3:0 (30_encoding.md R81). -/
def cmdOp (v : Word) : BitVec 4 := v.extractLsb' 0 4

/-- Field RSV0, bits 7:4, must be 0 (30_encoding.md R81). -/
def cmdRsv0 (v : Word) : BitVec 4 := v.extractLsb' 4 4

/-- Field NBYTES, bits 14:8 (30_encoding.md R81, R83). -/
def cmdNbytes (v : Word) : BitVec 7 := v.extractLsb' 8 7

/-- Field RSV1, bits 31:15, must be 0 (30_encoding.md R81). -/
def cmdRsv1 (v : Word) : BitVec 17 := v.extractLsb' 15 17

/-- `LegalCmd(v)` (30_encoding.md R84), conjunct by conjunct. -/
def legalCmd (v : Word) : Bool :=
  cmdRsv1 v == 0
    && cmdRsv0 v == 0
    && decide ((cmdOp v).toNat ≤ 4)
    && (!(cmdOp v == 3) || decide ((cmdNbytes v).toNat ≤ 64))
    && (cmdOp v == 3 || cmdNbytes v == 0)

/-- Why a word is no command: the cases of 30_encoding.md R85, named. The block itself tells them apart nowhere; its one verdict is ILLEGAL. Log 13. -/
inductive IllegalCmd where
  /-- A bit of RSV0 or RSV1 is set. -/
  | reservedBits
  /-- OP is in 0x5..0xF. -/
  | reservedOp
  /-- NBYTES ≠ 0 on a command other than FINAL. -/
  | nbytesSet
  /-- NBYTES in 65..127 on FINAL. -/
  | nbytesTooBig
deriving DecidableEq, Repr

/-- A command other than FINAL: its NBYTES must be 0 (30_encoding.md R81). -/
def decodePlain (i : Instr) (v : Word) : Except IllegalCmd Instr :=
  if cmdNbytes v = 0 then .ok i else .error .nbytesSet

/-- `Decode(v)` (30_encoding.md R90): total on every 32-bit value. -/
def decode (v : Word) : Except IllegalCmd Instr :=
  if cmdRsv1 v ≠ 0 ∨ cmdRsv0 v ≠ 0 then .error .reservedBits
  else if cmdOp v = 0x0 then decodePlain .nop v
  else if cmdOp v = 0x1 then decodePlain .init v
  else if cmdOp v = 0x2 then decodePlain .block v
  else if cmdOp v = 0x3 then
    if (cmdNbytes v).toNat ≤ 64 then .ok (.final (cmdNbytes v)) else .error .nbytesTooBig
  else if cmdOp v = 0x4 then decodePlain .clrerr v
  else .error .reservedOp

/-- The command word of an instruction (30_encoding.md R82): NOP 0, INIT 1, BLOCK 2, FINAL n `0x00000003 | (n << 8)`, CLRERR 4. -/
def encode : Instr → Word
  | .nop => 0x00000000
  | .init => 0x00000001
  | .block => 0x00000002
  | .final n => 0x00000003 ||| (n.setWidth 32 <<< 8)
  | .clrerr => 0x00000004

/-- The low `nbits` bits of `w`, the others 0: a row's word as the opcode table numbers its bits. -/
def tableBits (nbits w : Nat) : Nat := w % 2 ^ nbits

/-- What the decoder reads from an opcode-table word. A command is one 32-bit word (30_encoding.md R87), so a wider number is none. -/
def decodeTableWord (nbits w : Nat) : Option Instr :=
  if tableBits nbits w < 2 ^ 32 then (decode (BitVec.ofNat 32 (tableBits nbits w))).toOption else none

end Sys2Proof
end

