-- ==== Sys2Proof/Machine/Constants.lean ====
section
/-! DEFINITION. The fixed words of the algorithm: the IV (44_control.md R170) and the round constants K (42_compression.md R130); the ID word (10_state.md R26). The spec marks the IV and K as general knowledge, FIPS 180-4 (93_implementation_defined.md G1, G2; log 14). -/

namespace Sys2Proof.Machine

/-- `IV[0..7]` (44_control.md R170). -/
def iv : Vector Word 8 :=
  #v[0x6a09e667, 0xbb67ae85, 0x3c6ef372, 0xa54ff53a, 0x510e527f, 0x9b05688c, 0x1f83d9ab, 0x5be0cd19]

/-- The table of 42_compression.md R130, a read-only store of eight rows: row r is `K[8r..8r+7]` side by side in 256 bits, `K[8r]` the most significant, as the rule's table prints them. -/
def roundKRows : Vector (BitVec 256) 8 :=
  #v[0x428a2f98_71374491_b5c0fbcf_e9b5dba5_3956c25b_59f111f1_923f82a4_ab1c5ed5,
     0xd807aa98_12835b01_243185be_550c7dc3_72be5d74_80deb1fe_9bdc06a7_c19bf174,
     0xe49b69c1_efbe4786_0fc19dc6_240ca1cc_2de92c6f_4a7484aa_5cb0a9dc_76f988da,
     0x983e5152_a831c66d_b00327c8_bf597fc7_c6e00bf3_d5a79147_06ca6351_14292967,
     0x27b70a85_2e1b2138_4d2c6dfc_53380d13_650a7354_766a0abb_81c2c92e_92722c85,
     0xa2bfe8a1_a81a664b_c24b8b70_c76c51a3_d192e819_d6990624_f40e3585_106aa070,
     0x19a4c116_1e376c08_2748774c_34b0bcb5_391c0cb3_4ed8aa4a_5b9cca4f_682e6ff3,
     0x748f82ee_78a5636f_84c87814_8cc70208_90befffa_a4506ceb_bef9a3f7_c67178f2]

/-- `K[t]` (42_compression.md R130): word `t mod 8`, from the left, of row `t div 8`. -/
def roundKWord (t : Fin 64) : Word := (roundKRows[t.val / 8]).extractLsb' (32 * (7 - t.val % 8)) 32

/-- `K[0..63]` (42_compression.md R130). -/
def roundK : Vector Word 64 := Vector.ofFn roundKWord

/-- The word the ID register is hardwired to, ASCII "S256" (10_state.md R26). -/
def idWord : Word := 0x53323536

end Sys2Proof.Machine
end

