-- ==== Sys2Proof/Machine/State.lean ====
section
/-! DEFINITION. The state of SHA256-CORE (10_state.md R20 to R36), the events that act on it (00_scope.md R7, 30_encoding.md R86), its reset (R34), and the stop reasons of the host's interface. -/

namespace Sys2Proof.Machine

/-- The error codes 1 to 5 of 60_exceptions.md R191. Code 0, NONE, is the absence of one. -/
inductive ErrorCode where
  /-- 1: a CMD write of a word that is no command. -/
  | illegalCmd
  /-- 2: an otherwise legal write while BUSY = 1 (the check's line 6 comes before line 7). -/
  | busyWrite
  /-- 3: an unmapped offset. -/
  | badOffset
  /-- 4: a bad size, a misaligned word, or a byte access outside BUF and DIGEST. -/
  | badSize
  /-- 5: a write to STATUS, ID or DIGEST. -/
  | roWrite
deriving DecidableEq, Repr

/-- The fields of STATUS (10_state.md R24). `ecode = none` is ECODE 0. The reserved bits have no storage. -/
structure Status where
  busy  : Bool
  done  : Bool
  err   : Bool
  ecode : Option ErrorCode
deriving DecidableEq, Repr

/-- PEND (10_state.md R28). -/
inductive Pend where
  /-- NONE. -/
  | none
  /-- BLOCKOP. -/
  | blockOp
  /-- FINALOP(n), n in 0..64. -/
  | finalOp (n : Fin 65)
deriving DecidableEq, Repr

/-- The working variables a..h (10_state.md R30). -/
structure Vars where
  a : Word
  b : Word
  c : Word
  d : Word
  e : Word
  f : Word
  g : Word
  h : Word
deriving DecidableEq, Repr

/-- The scratch of one compression: the schedule W[0..63] (10_state.md R29), a..h and the round counter t (R30). -/
structure Scratch where
  w    : Vector Word 64
  vars : Vars
  t    : Fin 64
deriving DecidableEq, Repr

/-- The scratch outside a compression. The spec calls it dead there and gives it no value; zeros are a DESIGN CHOICE (log 5). -/
def Scratch.dead : Scratch where
  w := Vector.replicate 64 0#32
  vars := ⟨0, 0, 0, 0, 0, 0, 0, 0⟩
  t := 0

/-- A bus transaction (30_encoding.md R86): direction, 8-bit offset, size in bytes (any natural number; only 1 and 4 are legal), and a write's 32 bits. -/
inductive Txn where
  | read  (off : BitVec 8) (size : Nat)
  | write (off : BitVec 8) (size : Nat) (data : Word)
deriving DecidableEq, Repr

/-- One step's actor (00_scope.md R7; 70_reset_and_hazards.md R220): the host's transaction, the engine's turn, or the reset input. -/
inductive Event where
  | bus (t : Txn)
  | engine
  | reset
deriving DecidableEq, Repr

/-- The whole machine. The first six fields are the spec's (10_state.md R20); the last three are the model's own (logs 1, 3, 4). -/
structure State where
  /-- H[0..7] (R21). -/
  h       : Vector Word 8
  /-- BUF[0..63] (R22). -/
  buf     : Vector Byte 64
  /-- TOTAL (R23). -/
  total   : BitVec 64
  /-- STATUS (R24). -/
  status  : Status
  /-- PEND (R28). -/
  pend    : Pend
  /-- W, a..h and t (R29, R30). -/
  scratch : Scratch
  /-- What acts next, first event first (log 1). -/
  agenda  : List Event
  /-- The values the host's reads returned, newest first (log 3). -/
  replies : List Word
  /-- How many unspecified values have been drawn (log 4). -/
  draws   : Nat
deriving DecidableEq, Repr

/-- The machine stops with a fault: never. The block takes no traps and its computation raises nothing (60_exceptions.md R190, R196), and an erring transaction is recorded in STATUS while the machine goes on (R192, R193). So the type has no constructor. -/
inductive Fault where
deriving DecidableEq, Repr

/-- Why the model has no meaning for an instruction. -/
inductive Refusal where
  /-- An arm of exec without a meaning. Raised by no arm: every command has its meaning. Safe: the machine stops. -/
  | notModelled (mnemonic : String)
deriving DecidableEq, Repr

/-- The machine right after reset (10_state.md R34). The last three fields are the model's own; their values are DESIGN CHOICES (logs 1, 3, 4). -/
def State.reset : State where
  h := iv
  buf := Vector.replicate 64 0#8
  total := 0#64
  status := ⟨false, false, false, Option.none⟩
  pend := .none
  scratch := Scratch.dead
  agenda := []
  replies := []
  draws := 0

/-! Named updates, one per field. -/

def State.setH (s : State) (x : Vector Word 8) : State := { s with h := x }
def State.setBuf (s : State) (x : Vector Byte 64) : State := { s with buf := x }
def State.setTotal (s : State) (x : BitVec 64) : State := { s with total := x }
def State.setStatus (s : State) (x : Status) : State := { s with status := x }
def State.setPend (s : State) (x : Pend) : State := { s with pend := x }
def State.setScratch (s : State) (x : Scratch) : State := { s with scratch := x }
def State.setAgenda (s : State) (x : List Event) : State := { s with agenda := x }
def State.setReplies (s : State) (x : List Word) : State := { s with replies := x }
def State.setDraws (s : State) (x : Nat) : State := { s with draws := x }

end Sys2Proof.Machine
end

