-- ==== Sys2Proof/Machine/Flags.lean ====
section
/-! DEFINITION. STATUS (10_state.md R24): its read value, and every way its fields change. -/

namespace Sys2Proof.Machine

/-- ECODE's number (60_exceptions.md R191). -/
def ErrorCode.code : ErrorCode → BitVec 4
  | .illegalCmd => 1
  | .busyWrite => 2
  | .badOffset => 3
  | .badSize => 4
  | .roWrite => 5

/-- The 4-bit field ECODE: 0 when there is none (10_state.md R24). -/
def Status.ecodeBits (st : Status) : BitVec 4 :=
  match st.ecode with
  | none => 0#4
  | some c => c.code

/-- The read value `zext_32(ECODE : 0 : ERR : DONE : BUSY)` (10_state.md R24). -/
def Status.word (st : Status) : Word :=
  (st.ecodeBits ++ 0#1 ++ BitVec.ofBool st.err ++ BitVec.ofBool st.done ++ BitVec.ofBool st.busy).setWidth 32

/-- `raise Error(code)` on STATUS: the first error is kept (60_exceptions.md R192). -/
def Status.raise (st : Status) (c : ErrorCode) : Status :=
  if st.err then st else { st with err := true, ecode := some c }

/-- ERR and ECODE cleared (44_control.md R173). -/
def Status.clearError (st : Status) : Status := { st with err := false, ecode := none }

/-- INIT's clears: DONE, ERR, ECODE (44_control.md R172). -/
def Status.initialise (st : Status) : Status := { st with done := false, err := false, ecode := none }

/-- The issue of BLOCK or FINAL: BUSY set, DONE cleared (42_compression.md R138, 43_finalization.md R158). -/
def Status.issue (st : Status) : Status := { st with busy := true, done := false }

/-- BLOCK's completion: BUSY cleared (42_compression.md R139). -/
def Status.completeBlock (st : Status) : Status := { st with busy := false }

/-- FINAL's completion: BUSY cleared, DONE set (43_finalization.md R159). -/
def Status.completeFinal (st : Status) : Status := { st with busy := false, done := true }

end Sys2Proof.Machine
end

