-- ==== Sys2Proof/Machine/Operands.lean ====
section
/-! DEFINITION. What a transaction or a command operates on: bytes and words of a sequence, the big-endian conversions (41_byte_order.md), and the register map (20_memory.md R51). -/

namespace Sys2Proof.Machine

/-- Byte k of a byte sequence. An index outside it reads 0; no operation of the machine uses one (log 15). -/
def byteAt {n : Nat} (b : Vector Byte n) (k : Nat) : Byte := b[k]?.getD 0#8

/-- Word k of a word sequence. An index outside it reads 0; no operation of the machine uses one (log 15). -/
def wordAt {n : Nat} (w : Vector Word n) (k : Nat) : Word := w[k]?.getD 0#32

/-- `BE32(B, k)` (41_byte_order.md R120). -/
def be32 {n : Nat} (b : Vector Byte n) (k : Nat) : Word :=
  byteAt b k ++ byteAt b (k + 1) ++ byteAt b (k + 2) ++ byteAt b (k + 3)

/-- `Words(B)` (41_byte_order.md R121): the 16 words of a block. -/
def blockWords (b : Vector Byte 64) : Vector Word 16 := Vector.ofFn fun j => be32 b (4 * j)

/-- Byte j of a value of `8 * n` bits, the most significant first. -/
def byteOf {w : Nat} (v : BitVec w) (n j : Nat) : Byte := v.extractLsb' (8 * (n - 1 - j)) 8

/-- `BE64(L)` (41_byte_order.md R122). -/
def be64 (l : BitVec 64) : Vector Byte 8 := Vector.ofFn fun j => byteOf l 8 j

/-- `Ser32(w)` (41_byte_order.md R123). -/
def ser32 (w : Word) : Vector Byte 4 := Vector.ofFn fun j => byteOf w 4 j

/-- `Digest(H)` (41_byte_order.md R124) as the DIGEST view indexes it (10_state.md R27): `DIGEST[4i + j]` is byte j of H[i]. -/
def digest (h : Vector Word 8) : Vector Byte 32 :=
  Vector.ofFn fun k => byteOf (wordAt h (k / 4)) 4 (k % 4)

/-- The lowercase hex digit of a nibble. -/
def hexDigit (x : BitVec 4) : Char :=
  Char.ofNat (if x.toNat < 10 then 48 + x.toNat else 87 + x.toNat)

/-- `Hex(D)` (41_byte_order.md R125): host-side notation, two lowercase digits a byte, the high nibble first. The block never uses it. -/
def hex (d : List Byte) : List Char :=
  d.flatMap fun x => [hexDigit (x.extractLsb' 4 4), hexDigit (x.extractLsb' 0 4)]

/-- The regions of the register window (20_memory.md R51). -/
inductive Region where
  | buf
  | cmd
  | status
  | totalLo
  | totalHi
  | id
  | h
  | digest
  | unmapped
deriving DecidableEq, Repr

/-- `region(off)` (20_memory.md R51): a 4-byte register covers all four of its offsets. -/
def region (off : BitVec 8) : Region :=
  let o := off.toNat
  if o ≤ 0x3F then .buf
  else if o ≤ 0x43 then .cmd
  else if o ≤ 0x47 then .status
  else if o ≤ 0x4B then .totalLo
  else if o ≤ 0x4F then .totalHi
  else if o ≤ 0x53 then .id
  else if o ≤ 0x5F then .unmapped
  else if o ≤ 0x7F then .h
  else if o ≤ 0x9F then .digest
  else .unmapped

/-- The regions where a byte access is legal (20_memory.md R65). -/
def Region.byteWide : Region → Bool
  | .buf | .digest => true
  | .cmd | .status | .totalLo | .totalHi | .id | .h | .unmapped => false

/-- The regions that refuse a write with RO_WRITE (60_exceptions.md R194, line 5). -/
def Region.readOnly : Region → Bool
  | .status | .id | .digest => true
  | .buf | .cmd | .totalLo | .totalHi | .h | .unmapped => false

/-- The regions whose reads are unspecified while busy (20_memory.md R62). -/
def Region.unspecifiedWhileBusy : Region → Bool
  | .buf | .totalLo | .totalHi | .h | .digest => true
  | .cmd | .status | .id | .unmapped => false

/-- The index i of H[i] at offset `0x60 + 4*i` (10_state.md R21). -/
def hIndex (off : BitVec 8) : Nat := (off.toNat - 0x60) / 4

/-- The index k of DIGEST[k] at offset `0x80 + k` (10_state.md R27). -/
def digestIndex (off : BitVec 8) : Nat := off.toNat - 0x80

/-- The window offset of a platform address, the window standing at `base` (20_memory.md R50, `P_BASE`): none outside the window, which belongs to the platform (R67). Log 9. -/
def windowOffset (base addr : Nat) : Option (BitVec 8) :=
  if base ≤ addr ∧ addr < base + 256 then some (BitVec.ofNat 8 (addr - base)) else none

/-- FINAL's operand as the pending operation holds it: `zext(cmd[14:8])`, none above 64 (30_encoding.md R83, R84). -/
def finalLength (n : BitVec 7) : Option (Fin 65) :=
  if h : n.toNat ≤ 64 then some ⟨n.toNat, by omega⟩ else none

end Sys2Proof.Machine
end

