-- ==== Sys2Proof/Machine/Ops.lean ====
section
/-! DEFINITION. The operations over the registers that transactions and commands share: recording an error, the transaction check, reading and writing a register, the guard and the issue of a command. -/

namespace Sys2Proof.Machine

/-- Direction of a transaction (30_encoding.md R86). -/
inductive Dir where
  | read
  | write
deriving DecidableEq, Repr

/-- `raise Error(code)` (60_exceptions.md R192): the block's whole way of taking an exception. It saves nothing but the first code, and no control is redirected (R196). -/
def raiseError (c : ErrorCode) (s : State) : State := s.setStatus (s.status.raise c)

/-- Leaving the error state (60_exceptions.md R198), as CLRERR does it (44_control.md R173). -/
def clearError (s : State) : State := s.setStatus s.status.clearError

/-- `Check(off, size, dir, v)` (60_exceptions.md R194), line by line; `none` is Ok. -/
def check (s : State) (off : BitVec 8) (size : Nat) (dir : Dir) (v : Word) : Option ErrorCode :=
  if size ≠ 1 ∧ size ≠ 4 then some .badSize
  else if size = 4 ∧ off.toNat % 4 ≠ 0 then some .badSize
  else if region off = .unmapped then some .badOffset
  else if size = 1 ∧ (region off).byteWide = false then some .badSize
  else if dir = .write ∧ (region off).readOnly = true then some .roWrite
  else if dir = .write ∧ s.status.busy = true then some .busyWrite
  else if dir = .write ∧ region off = .cmd ∧ legalCmd v = false then some .illegalCmd
  else none

/-- `ReadReg(off, size)` (20_memory.md R54 to R61), for an access that passed the check. The unmapped offsets never pass it. -/
def readReg (s : State) (off : BitVec 8) (size : Nat) : Word :=
  match region off with
  | .buf => if size = 1 then (byteAt s.buf off.toNat).setWidth 32 else be32 s.buf off.toNat
  | .cmd => 0#32
  | .status => s.status.word
  | .totalLo => s.total.extractLsb' 0 32
  | .totalHi => s.total.extractLsb' 32 32
  | .id => idWord
  | .h => wordAt s.h (hIndex off)
  | .digest =>
    if size = 1 then (byteAt (digest s.h) (digestIndex off)).setWidth 32 else be32 (digest s.h) (digestIndex off)
  | .unmapped => 0#32

/-- A word stored big-endian into four bytes of BUF (20_memory.md R55). -/
def storeWord (b : Vector Byte 64) (k : Nat) (v : Word) : Vector Byte 64 :=
  (((b.setIfInBounds k (byteOf v 4 0)).setIfInBounds (k + 1) (byteOf v 4 1)).setIfInBounds (k + 2) (byteOf v 4 2)).setIfInBounds (k + 3) (byteOf v 4 3)

/-- `WriteReg(off, size, v)` on the data registers (20_memory.md R54 to R57), for a write that passed the check. CMD is the bus's (Machine/Bus.lean); the read-only and unmapped offsets never pass the check (log 15). -/
def writeReg (s : State) (off : BitVec 8) (size : Nat) (v : Word) : State :=
  match region off with
  | .buf => s.setBuf (if size = 1 then s.buf.setIfInBounds off.toNat (v.extractLsb' 0 8) else storeWord s.buf off.toNat v)
  | .totalLo => s.setTotal (s.total.extractLsb' 32 32 ++ v)
  | .totalHi => s.setTotal (v ++ s.total.extractLsb' 0 32)
  | .h => s.setH (s.h.setIfInBounds (hIndex off) v)
  | .cmd | .status | .id | .digest | .unmapped => s

/-- The free value `Unspec(size)` (20_memory.md R62): any 32-bit value for a word, any byte zero-extended for a byte. -/
def unspecified (size : Nat) (n : Nat) : Word :=
  if size = 1 then ((Config.unspec n).extractLsb' 0 8).setWidth 32 else Config.unspec n

/-- A command written while BUSY = 1 is dropped with BUSY_WRITE (44_control.md R171 to R173, 42_compression.md R138, 43_finalization.md R158, 60_exceptions.md R194 line 6); otherwise it has its effect. Log 6. -/
def whenIdle (effect : State → State) (s : State) : Host.Outcome State Fault Refusal :=
  .next (if s.status.busy then raiseError .busyWrite s else effect s)

/-- The issue of an operation (42_compression.md R138, 43_finalization.md R158). -/
def issue (p : Pend) (s : State) : State := (s.setPend p).setStatus s.status.issue

end Sys2Proof.Machine
end

