-- ==== Sys2Proof/Machine/Control.lean ====
section
/-! DEFINITION. The commands that complete within their own transaction: NOP, INIT, CLRERR (44_control.md R171 to R173). -/

namespace Sys2Proof.Machine

/-- NOP (44_control.md R171): no state changes. -/
def execNop (s : State) : Host.Outcome State Fault Refusal := whenIdle id s

/-- INIT's effect (44_control.md R172): H, TOTAL and the status; BUF is not cleared. -/
def initialise (s : State) : State := ((s.setH iv).setTotal 0#64).setStatus s.status.initialise

/-- INIT (44_control.md R172). -/
def execInit (s : State) : Host.Outcome State Fault Refusal := whenIdle initialise s

/-- CLRERR (44_control.md R173). -/
def execClrerr (s : State) : Host.Outcome State Fault Refusal := whenIdle clearError s

end Sys2Proof.Machine
end

