-- ==== Sys2Proof/Machine/Operation.lean ====
section
/-! DEFINITION. The commands that start an operation: BLOCK (42_compression.md R138) and FINAL n (43_finalization.md R158). The engine completes them (Machine/Engine.lean). -/

namespace Sys2Proof.Machine

/-- BLOCK issue (42_compression.md R138). -/
def execBlock (s : State) : Host.Outcome State Fault Refusal := whenIdle (issue .blockOp) s

/-- FINAL's effect (43_finalization.md R158): the issue, or ILLEGAL_CMD for n in 65..127. -/
def issueFinal (n : BitVec 7) (s : State) : State :=
  match finalLength n with
  | some m => issue (.finalOp m) s
  | none => raiseError .illegalCmd s

/-- FINAL n issue (43_finalization.md R158). -/
def execFinal (n : BitVec 7) (s : State) : Host.Outcome State Fault Refusal := whenIdle (issueFinal n) s

end Sys2Proof.Machine
end

