-- ==== Sys2Proof/Machine/Mixing.lean ====
section
/-! DEFINITION. The 32-bit operations and mixing functions (40_mixing.md R100 to R109). Addition, exclusive or, and, complement and logical shift are BitVec's own `+`, `^^^`, `&&&`, `~~~` and `>>>` (R100 to R102). -/

namespace Sys2Proof.Machine

/-- `rotr(x, n)` (40_mixing.md R103): the bits shifted out on the right come in on the left. Amounts are taken mod 32, as the rule asks of a model that admits any n. -/
def rotr (x : Word) (n : Nat) : Word := (x >>> (n % 32)) ||| (x <<< (32 - n % 32))

/-- σ0 (40_mixing.md R104). -/
def smallSigma0 (x : Word) : Word := rotr x 7 ^^^ rotr x 18 ^^^ (x >>> 3)

/-- σ1 (40_mixing.md R105). -/
def smallSigma1 (x : Word) : Word := rotr x 17 ^^^ rotr x 19 ^^^ (x >>> 10)

/-- Σ0 (40_mixing.md R106). -/
def bigSigma0 (x : Word) : Word := rotr x 2 ^^^ rotr x 13 ^^^ rotr x 22

/-- Σ1 (40_mixing.md R107). -/
def bigSigma1 (x : Word) : Word := rotr x 6 ^^^ rotr x 11 ^^^ rotr x 25

/-- Ch, the source's Choice (40_mixing.md R108). -/
def ch (x y z : Word) : Word := (x &&& y) ^^^ (~~~x &&& z)

/-- Maj, the source's Majority (40_mixing.md R109). -/
def maj (x y z : Word) : Word := (x &&& y) ^^^ (x &&& z) ^^^ (y &&& z)

end Sys2Proof.Machine
end

