-- ==== Sys2Proof/Machine/Compression.lean ====
section
/-! DEFINITION. The compression function as the spec writes it, on plain values (42_compression.md R130 to R137). Machine/Engine.lean runs the same rounds in the state's scratch. -/

namespace Sys2Proof.Machine

/-- The recurrence of 42_compression.md R132: `W[t]` from `W[t-2]`, `W[t-7]`, `W[t-15]` and `W[t-16]`. -/
def nextScheduleWord (w : Vector Word 64) (t : Nat) : Word :=
  smallSigma1 (wordAt w (t - 2)) + wordAt w (t - 7) + smallSigma0 (wordAt w (t - 15)) + wordAt w (t - 16)

/-- Schedule words 0..n-1 loaded from the block (42_compression.md R131), in increasing order, over what `w` held. -/
def loadSchedule (b : Vector Byte 64) (w : Vector Word 64) : Nat → Vector Word 64
  | 0 => w
  | t + 1 => (loadSchedule b w t).setIfInBounds t (be32 b (4 * t))

/-- Schedule words 16..15+n computed in increasing order (42_compression.md R132). -/
def extendSchedule (w : Vector Word 64) : Nat → Vector Word 64
  | 0 => w
  | n + 1 =>
    let w' := extendSchedule w n
    w'.setIfInBounds (16 + n) (nextScheduleWord w' (16 + n))

/-- The whole schedule of block `b`, written over what `w` held (42_compression.md R137, first two lines). Every entry is written before it is read (10_state.md R29). -/
def schedule (b : Vector Byte 64) (w : Vector Word 64) : Vector Word 64 :=
  extendSchedule (loadSchedule b w 16) 48

/-- The sliding 16-word window that 42_compression.md R132 says computes the same words: from `W[t-16..t-1]` to `W[t-15..t]`. The machine uses the 64-word array. -/
def slideWindow (x : Vector Word 16) : Vector Word 16 :=
  Vector.ofFn fun j =>
    if j.val < 15 then wordAt x (j.val + 1)
    else smallSigma1 (wordAt x 14) + wordAt x 9 + smallSigma0 (wordAt x 1) + wordAt x 0

/-- The working variables at the start (42_compression.md R133). -/
def Vars.ofState (h : Vector Word 8) : Vars :=
  ⟨wordAt h 0, wordAt h 1, wordAt h 2, wordAt h 3, wordAt h 4, wordAt h 5, wordAt h 6, wordAt h 7⟩

/-- T1 of a round with constant `k` and schedule word `w` (42_compression.md R134). -/
def roundT1 (v : Vars) (k w : Word) : Word := v.h + bigSigma1 v.e + ch v.e v.f v.g + k + w

/-- T2 of a round (42_compression.md R134). -/
def roundT2 (v : Vars) : Word := bigSigma0 v.a + maj v.a v.b v.c

/-- One round: all eight variables assigned at once (42_compression.md R135). -/
def roundStep (v : Vars) (k w : Word) : Vars where
  a := roundT1 v k w + roundT2 v
  b := v.a
  c := v.b
  d := v.c
  e := v.d + roundT1 v k w
  f := v.e
  g := v.f
  h := v.g

/-- Rounds 0..n-1 over the schedule `w` (42_compression.md R137). -/
def rounds (w : Vector Word 64) (v : Vars) : Nat → Vars
  | 0 => v
  | t + 1 => roundStep (rounds w v t) (wordAt roundK t) (wordAt w t)

/-- The final additions into the state (42_compression.md R136). -/
def addBack (h : Vector Word 8) (v : Vars) : Vector Word 8 :=
  #v[wordAt h 0 + v.a, wordAt h 1 + v.b, wordAt h 2 + v.c, wordAt h 3 + v.d,
     wordAt h 4 + v.e, wordAt h 5 + v.f, wordAt h 6 + v.g, wordAt h 7 + v.h]

/-- `Compress(Hin, B)` (42_compression.md R137): a pure function of the 8 words and the block. -/
def compress (h : Vector Word 8) (b : Vector Byte 64) : Vector Word 8 :=
  addBack h (rounds (schedule b (Vector.replicate 64 0#32)) (Vars.ofState h) 64)

end Sys2Proof.Machine
end

