-- ==== Sys2Proof/Machine/Finalization.lean ====
section
/-! DEFINITION. Padding and the finalize function on plain values (43_finalization.md R151 to R160). Machine/Engine.lean runs the same blocks in the state. -/

namespace Sys2Proof.Machine

/-- `TOTAL' = (TOTAL + n) mod 2^64` (43_finalization.md R151). -/
def finalTotal (total : BitVec 64) (n : Nat) : BitVec 64 := total + BitVec.ofNat 64 n

/-- The bit length `L = (TOTAL' × 8) mod 2^64` (43_finalization.md R151). -/
def bitLength (total' : BitVec 64) : BitVec 64 := total' * 8#64

/-- The padded length Lp (43_finalization.md R152). -/
def paddedLength (n : Nat) : Nat := if n ≤ 55 then 64 else 128

/-- Byte i of the padded stream S of `BUF[0..n-1]` with bit length `l` (43_finalization.md R153). -/
def padByte (b : Vector Byte 64) (n : Nat) (l : BitVec 64) (i : Nat) : Byte :=
  if i < n then byteAt b i
  else if i = n then 0x80#8
  else if paddedLength n - 8 ≤ i then byteAt (be64 l) (i - (paddedLength n - 8))
  else 0#8

/-- The padded block P0 (k = 0) or P1 (k = 1): `S[64k .. 64k+63]` (43_finalization.md R153). -/
def padBlock (b : Vector Byte 64) (n : Nat) (l : BitVec 64) (k : Nat) : Vector Byte 64 :=
  Vector.ofFn fun i => padByte b n l (64 * k + i)

/-- `Finalize(Hin, B, n, T)` (43_finalization.md R160): the final state and TOTAL'. -/
def finalize (h : Vector Word 8) (b : Vector Byte 64) (n : Nat) (total : BitVec 64) : Vector Word 8 × BitVec 64 :=
  let total' := finalTotal total n
  let l := bitLength total'
  let h1 := compress h (padBlock b n l 0)
  let h2 := if paddedLength n = 128 then compress h1 (padBlock b n l 1) else h1
  (h2, total')

end Sys2Proof.Machine
end

