-- ==== Sys2Proof/Machine/Engine.lean ====
section
/-! DEFINITION. The engine (00_scope.md R7): a compression run round by round in the state's scratch, and the one atomic step that completes the pending operation (42_compression.md R139, 43_finalization.md R159). -/

namespace Sys2Proof.Machine

/-- The start of a compression of block `b` into the words `h`: the schedule over whatever W held (42_compression.md R131, R132), a..h from H (R133), t at 0. -/
def loadScratch (b : Vector Byte 64) (h : Vector Word 8) (x : Scratch) : Scratch where
  w := schedule b x.w
  vars := Vars.ofState h
  t := 0

/-- Round t in the scratch (42_compression.md R134, R135), then the next t. -/
def scratchRound (x : Scratch) : Scratch where
  w := x.w
  vars := roundStep x.vars (wordAt roundK x.t) (wordAt x.w x.t)
  t := x.t + 1

/-- n rounds in the scratch. -/
def scratchRounds : Nat → Scratch → Scratch
  | 0, x => x
  | n + 1, x => scratchRound (scratchRounds n x)

/-- The end of a compression: a..h added into H (42_compression.md R136), the scratch discarded (10_state.md R29, R30; log 5). -/
def finishScratch (s : State) : State := (s.setH (addBack s.h s.scratch.vars)).setScratch Scratch.dead

/-- `n` rounds of a compression of `b`, from its start to its end, into H. -/
def compressRounds (n : Nat) (b : Vector Byte 64) (s : State) : State :=
  finishScratch (s.setScratch (scratchRounds n (loadScratch b s.h s.scratch)))

/-- One compression of `b` into H: 64 rounds in the scratch (42_compression.md R137). -/
def compressInState (b : Vector Byte 64) (s : State) : State := compressRounds 64 b s

/-- The rest of BLOCK's completion, H once compressed (42_compression.md R139): TOTAL, PEND, BUSY. -/
def retireBlock (s : State) : State := ((s.setTotal (s.total + 64#64)).setPend .none).setStatus s.status.completeBlock

/-- BLOCK completion (42_compression.md R139). -/
def completeBlock (s : State) : State := retireBlock (compressInState s.buf s)

/-- Padded block k of FINAL n, from the state at the start of the completion (43_finalization.md R151 to R153). -/
def paddedBlockOf (n k : Nat) (s : State) : Vector Byte 64 := padBlock s.buf n (bitLength (finalTotal s.total n)) k

/-- The one or two compressions of FINAL n (43_finalization.md R154 to R156, R160), P0 first; the padding is internal and BUF is only read (R157). -/
def compressPadded (n : Nat) (s : State) : State :=
  if paddedLength n = 128 then compressInState (paddedBlockOf n 1 s) (compressInState (paddedBlockOf n 0 s) s)
  else compressInState (paddedBlockOf n 0 s) s

/-- The rest of FINAL n's completion, H once compressed (43_finalization.md R159): TOTAL, PEND, BUSY, DONE. -/
def retireFinal (n : Nat) (s : State) : State :=
  ((s.setTotal (finalTotal s.total n)).setPend .none).setStatus s.status.completeFinal

/-- FINAL n completion (43_finalization.md R159). -/
def completeFinal (n : Nat) (s : State) : State := retireFinal n (compressPadded n s)

/-- The engine's turn (00_scope.md R7): the completion of what is pending. With nothing pending it has no step and nothing changes (log 7). -/
def engineStep (s : State) : State :=
  match s.pend with
  | .none => s
  | .blockOp => completeBlock s
  | .finalOp n => completeFinal n s

/-- How many compressions an operation takes (70_reset_and_hazards.md R230). -/
def Pend.compressions : Pend → Nat
  | .none => 0
  | .blockOp => 1
  | .finalOp n => if n.val ≤ 55 then 1 else 2

/-- The cycles an operation takes (70_reset_and_hazards.md R230). The model has no time: the machine never reads it (log 10). -/
def Pend.cycles (p : Pend) : Nat := p.compressions * Config.pLatBlock

end Sys2Proof.Machine
end

