-- ==== Sys2Proof/Machine/Bus.lean ====
section
/-! DEFINITION. The bus (20_memory.md R52): whole transactions, the command a CMD write carries, and what each event of the agenda does. -/

namespace Sys2Proof.Machine

/-- `BusRead(off, size)` (20_memory.md R52): the value returned and the state after. A refused read returns 0 and records its error; a data read while busy draws an unspecified value (R62); any other reads the register. -/
def busRead (off : BitVec 8) (size : Nat) (s : State) : Word × State :=
  match check s off size .read 0#32 with
  | some c => (0#32, raiseError c s)
  | none =>
    if s.status.busy = true ∧ (region off).unspecifiedWhileBusy = true then
      (unspecified size s.draws, s.setDraws (s.draws + 1))
    else (readReg s off size, s)

/-- A 4-byte CMD write that passed the check: decode the word and perform the command (20_memory.md R59). The check has refused a word that does not decode. -/
def performCommand (v : Word) (s : State) : Host.Outcome State Fault Refusal :=
  match decode v with
  | .ok i => exec i s
  | .error _ => .next (raiseError .illegalCmd s)

/-- `BusWrite(off, size, v)` (20_memory.md R52). -/
def busWrite (off : BitVec 8) (size : Nat) (v : Word) (s : State) : Host.Outcome State Fault Refusal :=
  match check s off size .write v with
  | some c => .next (raiseError c s)
  | none => if region off = .cmd then performCommand v s else .next (writeReg s off size v)

/-- The host notes what a read returned, newest first (log 3). -/
def reply (v : Word) (s : State) : State := s.setReplies (v :: s.replies)

/-- One transaction, whole (20_memory.md R53). -/
def transact : Txn → State → Host.Outcome State Fault Refusal
  | .read off size, s => .next (reply (busRead off size s).1 (busRead off size s).2)
  | .write off size v, s => busWrite off size v s

/-- The reset input (70_reset_and_hazards.md R220, R221): every piece of the block's state to its reset value, a pending operation discarded whole. The outside's agenda and notes, and the draw counter, are not the block's (log 8). -/
def resetBlock (s : State) : State :=
  ((State.reset.setAgenda s.agenda).setReplies s.replies).setDraws s.draws

/-- What one event does, once it is taken from the agenda. -/
def takeEvent : Event → State → Host.Outcome State Fault Refusal
  | .bus t, s => transact t s
  | .engine, s => .next (engineStep s)
  | .reset, s => .next (resetBlock s)

/-- With nothing on the agenda only the engine may move: a pending operation completes (70_reset_and_hazards.md R230), and an idle block stays as it is (60_exceptions.md R204). Log 1. -/
def quietTurn (s : State) : State := engineStep s

/-- The event by which a command word reaches the block: a 4-byte write to CMD (30_encoding.md R80, R81). -/
def commandEvent (v : Word) : Event := .bus (.write 0x40#8 4 v)

end Sys2Proof.Machine
end

