-- ==== Sys2Proof/Machine/Step.lean ====
section
/-! DEFINITION. One step of the machine: the next event of the agenda (00_scope.md R7, 20_memory.md R53). -/

namespace Sys2Proof.Machine

/-- One step: the first event of the agenda acts; with an empty agenda only the engine may. -/
def step (s : State) : Host.Outcome State Fault Refusal :=
  match s.agenda with
  | [] => .next (quietTurn s)
  | e :: rest => takeEvent e (s.setAgenda rest)

/-- The state whose next step performs the command word `w` (its low `nbits` bits): the host's CMD write stands first on the agenda. The block fetches nothing (20_memory.md R70), so this is how a command arrives. Log 2. -/
def State.withFetchWord (s : State) (nbits w : Nat) : State :=
  s.setAgenda (commandEvent (BitVec.ofNat 32 (tableBits nbits w)) :: s.agenda)

end Sys2Proof.Machine
end

