-- ==== Sys2Proof/Machine/HostProgram.lean ====
section
/-! DEFINITION. Host programs as agendas: the assembler's lines and pseudo-instructions expanded into transactions (30_encoding.md R88, R89) and the protocol for one message (70_reset_and_hazards.md R223). They are the host's; the block only meets the events (log 11). -/

namespace Sys2Proof.Machine

/-- `rd8 OFF` (30_encoding.md R88). -/
def rd8 (off : Nat) : Event := .bus (.read (BitVec.ofNat 8 off) 1)

/-- `rd32 OFF` (30_encoding.md R88). -/
def rd32 (off : Nat) : Event := .bus (.read (BitVec.ofNat 8 off) 4)

/-- `wr8 OFF, VAL` (30_encoding.md R88). -/
def wr8 (off : Nat) (v : Word) : Event := .bus (.write (BitVec.ofNat 8 off) 1 v)

/-- `wr32 OFF, VAL` (30_encoding.md R88). -/
def wr32 (off : Nat) (v : Word) : Event := .bus (.write (BitVec.ofNat 8 off) 4 v)

/-- `nop`, `init`, `block`, `final N`, `clrerr`: the CMD write of the command's word (30_encoding.md R88). -/
def command (i : Instr) : Event := wr32 0x40 (encode i)

/-- One `wr8` per byte (30_encoding.md R89). -/
def loadBytes (off : Nat) : List Byte → List Event
  | [] => []
  | b :: rest => wr8 off (b.setWidth 32) :: loadBytes (off + 1) rest

/-- `ldbuf OFF, "bytes"` (30_encoding.md R89): a `wr32` per 4 bytes while the offset is a multiple of 4 and 4 bytes remain, then a `wr8` per byte. -/
def ldbuf (off : Nat) : List Byte → List Event
  | b0 :: b1 :: b2 :: b3 :: rest =>
    if off % 4 = 0 then wr32 off (b0 ++ b1 ++ b2 ++ b3) :: ldbuf (off + 4) rest
    else loadBytes off (b0 :: b1 :: b2 :: b3 :: rest)
  | bytes => loadBytes off bytes

/-- `poll` (30_encoding.md R89) as it runs when the engine's turn comes after `waits` reads of STATUS: those reads, the turn, and the read that ends the loop. -/
def poll (waits : Nat) : List Event := List.replicate waits (rd32 0x44) ++ [.engine, rd32 0x44]

/-- `rddigest` (30_encoding.md R89): H[0] to H[7]. -/
def rddigest : List Event :=
  [rd32 0x60, rd32 0x64, rd32 0x68, rd32 0x6C, rd32 0x70, rd32 0x74, rd32 0x78, rd32 0x7C]

/-- The check of `expect OP, VAL` (30_encoding.md R89), once its read OP has been an event: the last reply is VAL. It makes no further transaction. -/
def expect (v : Word) (s : State) : Bool := s.replies.head? == some v

/-- The q full blocks of a message, the k-th polled `waits k` times before its completion (70_reset_and_hazards.md R223). -/
def feedBlocks (waits : Nat → Nat) : Nat → Nat → List Byte → List Event
  | 0, _, _ => []
  | q + 1, k, m => ldbuf 0 (m.take 64) ++ [command .block] ++ poll (waits k) ++ feedBlocks waits q (k + 1) (m.drop 64)

/-- The host protocol for the message `m` (70_reset_and_hazards.md R223), line by line, for engine turns that come after `waits k` polls of operation k. -/
def messageProgram (waits : Nat → Nat) (m : List Byte) : List Event :=
  let q := m.length / 64
  [command .init] ++ feedBlocks waits q 0 m ++ ldbuf 0 (m.drop (64 * q))
    ++ [command (.final (BitVec.ofNat 7 (m.length % 64)))] ++ poll (waits q) ++ rddigest

end Sys2Proof.Machine
end

