-- ==== Sys2Proof/Machine/Reference.lean ====
section
/-! DEFINITION. SHA-256 of a whole message, the standard's way (00_scope.md R2; FIPS 180-4): pad the message, cut it into blocks, compress them in order from the IV. The machine never runs it: it is what the host protocol's result is compared with (70_reset_and_hazards.md R223). Log 16. -/

namespace Sys2Proof.Machine

/-- The padded message (00_scope.md R13, "Padding"): the marker 0x80, the fewest zeros that make the length a multiple of 64 with the 8 length bytes, and the bit length, big-endian. -/
def padMessage (m : List Byte) : List Byte :=
  m ++ [0x80#8] ++ List.replicate ((119 - m.length % 64) % 64) 0#8 ++ (be64 (BitVec.ofNat 64 (8 * m.length))).toList

/-- The first 64 bytes of a sequence as a block. -/
def blockOf (m : List Byte) : Vector Byte 64 := Vector.ofFn fun i => m[i.val]?.getD 0#8

/-- `q` blocks of `m` compressed in order into `h`. -/
def hashBlocks : Nat → List Byte → Vector Word 8 → Vector Word 8
  | 0, _, h => h
  | q + 1, m, h => hashBlocks q (m.drop 64) (compress h (blockOf m))

/-- The final state of SHA-256 on the message `m`: its digest is `digest (sha256 m)`. -/
def sha256 (m : List Byte) : Vector Word 8 := hashBlocks ((padMessage m).length / 64) (padMessage m) iv

end Sys2Proof.Machine
end

