-- ==== Sys2Proof/Safety.lean ====
section
/-! DEFINITION. The terms claims use: the invariant of the state, an idle block, an ended program, and "the same block". -/

namespace Sys2Proof.Machine

/-- What the spec says of every state between steps: BUSY exactly when an operation is pending (10_state.md R24, R28); ERR exactly when ECODE is not 0 (R24); not BUSY and DONE together (R24: the issue clears DONE, and only FINAL's completion sets it, clearing BUSY); the scratch dead between steps (R29, R30; log 5). -/
abbrev Consistent (s : State) : Prop :=
  (s.status.busy = true ↔ s.pend ≠ .none) ∧
  (s.status.err = true ↔ s.status.ecode ≠ none) ∧
  ¬(s.status.busy = true ∧ s.status.done = true) ∧
  s.scratch = Scratch.dead

/-- Idle (00_scope.md R14): STATUS.BUSY = 0, and so nothing is pending (10_state.md R28). -/
abbrev Idle (s : State) : Prop := s.status.busy = false ∧ s.pend = .none

/-- The end of a host program (70_reset_and_hazards.md R231): its last transaction done, BUSY = 0 and PEND = NONE. -/
abbrev Ended (s : State) : Prop := s.agenda = [] ∧ Idle s

/-- Everything the block holds (10_state.md R20) is the same in both states; the outside's agenda, notes and draw counter may differ. -/
abbrev SameBlock (s t : State) : Prop :=
  t.h = s.h ∧ t.buf = s.buf ∧ t.total = s.total ∧ t.status = s.status ∧ t.pend = s.pend ∧ t.scratch = s.scratch

/-- The outside is as before: agenda, replies and draw counter. -/
abbrev SameOutside (s t : State) : Prop := t.agenda = s.agenda ∧ t.replies = s.replies ∧ t.draws = s.draws

end Sys2Proof.Machine
end

