-- ==== Sys2Proof/Certificates/Slice0/Obligations.lean ====
section
/-! DEFINITION. The statements about SHA256-CORE. Each docstring names the rules of spec/ it formalises. `transact t s` is one bus transaction, `exec i s` one command, `step s` one step, `Host.Core.run Sys2Proof.core k s` k steps. -/

open Sys2Proof Sys2Proof.Machine

/-! ### Encoding -/

/-- Decoding the encoding of a well-formed command gives the command back, NBYTES at each of its 65 values (30_encoding.md R82, R83). -/
def Obligations.DecodeOfEncode : Prop :=
  ∀ i : Instr, i.wellFormed = true → decode (encode i) = .ok i

/-- A word that decodes has one meaning: it is the encoding of the command it decodes to, and that command is well formed (30_encoding.md R82, R90). -/
def Obligations.EncodeOfDecode : Prop :=
  ∀ (v : Word) (i : Instr), decode v = .ok i → i.wellFormed = true ∧ encode i = v

/-- The decoder is R90's: ILLEGAL exactly on the words that fail LegalCmd, and otherwise the command OP names. -/
def Obligations.DecodeIsTotalByOp : Prop :=
  ∀ v : Word,
    (legalCmd v = false → ∃ r, decode v = .error r) ∧
    (legalCmd v = true →
      (cmdOp v = 0x0 → decode v = .ok .nop) ∧
      (cmdOp v = 0x1 → decode v = .ok .init) ∧
      (cmdOp v = 0x2 → decode v = .ok .block) ∧
      (cmdOp v = 0x3 → decode v = .ok (.final (cmdNbytes v)) ∧ (cmdNbytes v).toNat ≤ 64) ∧
      (cmdOp v = 0x4 → decode v = .ok .clrerr) ∧
      (cmdOp v).toNat ≤ 4)

/-- The legal words are the opcode map's and no others: 0, 1, 2, 4, and 3 + 256 n for n ≤ 64 (30_encoding.md R82, R84). -/
def Obligations.LegalWordsAreTheOpcodeMap : Prop :=
  ∀ v : Word, legalCmd v = true ↔
    v.toNat = 0 ∨ v.toNat = 1 ∨ v.toNat = 2 ∨ v.toNat = 4 ∨ ∃ n : Nat, n ≤ 64 ∧ v.toNat = 3 + 256 * n

/-- The words R82 writes out decode to the commands they stand for, and V-ERR-1's illegal words to none. -/
def Obligations.SpecWordsDecode : Prop :=
  decode 0x00000000 = .ok .nop ∧ decode 0x00000001 = .ok .init ∧ decode 0x00000002 = .ok .block ∧
  decode 0x00000003 = .ok (.final 0) ∧ decode 0x00000303 = .ok (.final 3) ∧ decode 0x00003703 = .ok (.final 55) ∧
  decode 0x00003803 = .ok (.final 56) ∧ decode 0x00003F03 = .ok (.final 63) ∧ decode 0x00004003 = .ok (.final 64) ∧
  decode 0x00000004 = .ok .clrerr ∧
  (∃ r, decode 0x00000005 = .error r) ∧ (∃ r, decode 0x00000010 = .error r) ∧ (∃ r, decode 0x00008000 = .error r) ∧
  (∃ r, decode 0x00004103 = .error r) ∧ (∃ r, decode 0x00000102 = .error r)

/-- Which words are illegal, by the three cases of 30_encoding.md R85; and a 4-byte CMD write of one to an idle block is refused with ILLEGAL_CMD and has no other effect. -/
def Obligations.IllegalCommandIsRefused : Prop :=
  (∀ v : Word, legalCmd v = false ↔
    5 ≤ (cmdOp v).toNat ∨ (cmdRsv0 v ≠ 0 ∨ cmdRsv1 v ≠ 0) ∨
      ((cmdOp v ≠ 0x3 ∧ cmdNbytes v ≠ 0) ∨ (cmdOp v = 0x3 ∧ 65 ≤ (cmdNbytes v).toNat))) ∧
  ∀ (s : State) (v : Word), legalCmd v = false → s.status.busy = false →
    ∃ t, transact (.write 0x40#8 4 v) s = .next t ∧ t.status = s.status.raise .illegalCmd ∧
      t.h = s.h ∧ t.buf = s.buf ∧ t.total = s.total ∧ t.pend = s.pend ∧ t.scratch = s.scratch ∧ SameOutside s t

/-! ### The step -/

/-- A step takes the first event of the agenda, whole: the transaction (20_memory.md R53), the engine's turn, or the reset; with an empty agenda it is the engine's turn. That a list in State says who moves, and that an empty one lets the engine move, is the model's choice (log 1), and so is an engine turn that passes with nothing pending (log 7). -/
def Obligations.StepTakesTheFirstEvent : Prop :=
  ∀ (s : State) (rest : List Event),
    (∀ t : Txn, s.agenda = .bus t :: rest → step s = transact t (s.setAgenda rest)) ∧
    (s.agenda = .engine :: rest → step s = .next (engineStep (s.setAgenda rest))) ∧
    (s.agenda = .reset :: rest → step s = .next (resetBlock (s.setAgenda rest))) ∧
    (s.agenda = [] → step s = .next (engineStep s))

/-- When the next event is a 4-byte CMD write whose word decodes to i, the step is exec of i, in every state (20_memory.md R59, R70). -/
def Obligations.StepRunsTheDecodedCommand : Prop :=
  ∀ (s : State) (rest : List Event) (v : Word) (i : Instr),
    s.agenda = .bus (.write 0x40#8 4 v) :: rest → decode v = .ok i → step s = exec i (s.setAgenda rest)

/-- The step from a state with a command word placed by withFetchWord is exec of that command. The placing is the model's (log 2). -/
def Obligations.PlacedWordRunsAsTheNextStep : Prop :=
  ∀ (s : State) (w : Nat) (i : Instr), decodeTableWord 32 w = some i → step (s.withFetchWord 32 w) = exec i s

/-- No step stops the machine: the block takes no traps and its computation raises nothing (60_exceptions.md R190, R196). -/
def Obligations.EveryStepAnswersNext : Prop :=
  ∀ s : State, ∃ t, step s = .next t

/-! ### Reset -/

/-- The values R34's table gives for reset; the ID word and the reserved STATUS bits are read on the bus. -/
def Obligations.ResetLeavesTheValuesOfRule34 : Prop :=
  State.reset.h = #v[0x6a09e667, 0xbb67ae85, 0x3c6ef372, 0xa54ff53a, 0x510e527f, 0x9b05688c, 0x1f83d9ab, 0x5be0cd19] ∧
  (∀ k, k < 64 → byteAt State.reset.buf k = 0#8) ∧ State.reset.total = 0#64 ∧
  State.reset.status.busy = false ∧ State.reset.status.done = false ∧ State.reset.status.err = false ∧
  State.reset.status.ecode = none ∧ State.reset.pend = .none ∧
  transact (.read 0x44#8 4) State.reset = .next (reply 0#32 State.reset) ∧
  transact (.read 0x50#8 4) State.reset = .next (reply 0x53323536 State.reset)

/-- The reset input in any state, a pending operation included: the values of R34; H is the IV and TOTAL 0, so the operation is discarded whole (70_reset_and_hazards.md R220, R221). Two clauses are the model's: the scratch is zero (log 5; R34 gives W, a..h and t no value), and the outside's agenda, replies and draw counter stay (log 8). -/
def Obligations.ResetDiscardsThePendingOperation : Prop :=
  ∀ (s : State) (rest : List Event), s.agenda = .reset :: rest →
    ∃ t, step s = .next t ∧ t.h = iv ∧ (∀ k, k < 64 → byteAt t.buf k = 0#8) ∧ t.total = 0#64 ∧
      t.status.word = 0#32 ∧ t.status.busy = false ∧ t.pend = .none ∧ t.scratch = Scratch.dead ∧
      t.agenda = rest ∧ t.replies = s.replies ∧ t.draws = s.draws

/-! ### The invariant -/

/-- The invariant holds at reset (10_state.md R34). Its clause that the scratch is zero is the model's choice (log 5; R34 gives W, a..h and t no value). -/
def Obligations.ResetIsConsistent : Prop := Consistent State.reset

/-- Every step keeps the invariant: BUSY exactly when an operation is pending (10_state.md R28), ERR exactly when ECODE is not 0 (R24), never BUSY and DONE together, and the scratch dead between steps (log 5). -/
def Obligations.StepKeepsConsistent : Prop :=
  ∀ s t : State, Consistent s → step s = .next t → Consistent t

/-! ### The commands -/

/-- NOP (44_control.md R171): on an idle block no state changes; on a busy one it is dropped with BUSY_WRITE. -/
def Obligations.NopChangesNothing : Prop :=
  encode .nop = 0x00000000 ∧
  ∀ s : State, (s.status.busy = false → exec .nop s = .next s) ∧
    (s.status.busy = true → exec .nop s = .next (raiseError .busyWrite s))

/-- INIT (44_control.md R172): H is the IV, TOTAL 0, DONE, ERR and ECODE cleared, BUSY as it was, BUF and all else unchanged; a second INIT changes nothing more; on a busy block it has no effect but BUSY_WRITE. -/
def Obligations.InitStartsANewDigest : Prop :=
  encode .init = 0x00000001 ∧
  ∀ s : State,
    (s.status.busy = false →
      ∃ t, exec .init s = .next t ∧
        t.h = #v[0x6a09e667, 0xbb67ae85, 0x3c6ef372, 0xa54ff53a, 0x510e527f, 0x9b05688c, 0x1f83d9ab, 0x5be0cd19] ∧
        t.total = 0#64 ∧ t.status.busy = false ∧ t.status.done = false ∧ t.status.err = false ∧ t.status.ecode = none ∧
        t.status.word = 0#32 ∧ t.buf = s.buf ∧ t.pend = s.pend ∧ t.scratch = s.scratch ∧ SameOutside s t ∧
        exec .init t = .next t) ∧
    (s.status.busy = true → exec .init s = .next (raiseError .busyWrite s))

/-- CLRERR (44_control.md R173): ERR and ECODE cleared, nothing else changed; with ERR = 0 and ECODE = 0 no effect at all; on a busy block it is dropped with BUSY_WRITE, and ERR is 1 afterwards with an earlier code kept. -/
def Obligations.ClrerrClearsTheErrorRecord : Prop :=
  encode .clrerr = 0x00000004 ∧
  ∀ s : State,
    (s.status.busy = false →
      ∃ t, exec .clrerr s = .next t ∧ t.status.err = false ∧ t.status.ecode = none ∧
        t.status.busy = s.status.busy ∧ t.status.done = s.status.done ∧
        t.h = s.h ∧ t.total = s.total ∧ t.buf = s.buf ∧ t.pend = s.pend ∧ t.scratch = s.scratch ∧ SameOutside s t ∧
        (s.status.err = false → s.status.ecode = none → t = s)) ∧
    (s.status.busy = true →
      ∃ t, exec .clrerr s = .next t ∧ t = raiseError .busyWrite s ∧ t.status.err = true ∧
        (s.status.err = true → t.status.ecode = s.status.ecode))

/-- BLOCK issue (42_compression.md R138): PEND, BUSY and DONE, whatever DONE, H, BUF and TOTAL were; ERR and ECODE and all else unchanged. Busy: dropped, the running operation as it was. Any other bit of the word set: ILLEGAL_CMD. -/
def Obligations.BlockIssueStartsTheOperation : Prop :=
  encode .block = 0x00000002 ∧
  (∀ s : State, s.status.busy = false →
    ∃ t, exec .block s = .next t ∧ t.pend = .blockOp ∧ t.status.busy = true ∧ t.status.done = false ∧
      t.status.err = s.status.err ∧ t.status.ecode = s.status.ecode ∧
      t.h = s.h ∧ t.buf = s.buf ∧ t.total = s.total ∧ t.scratch = s.scratch ∧ SameOutside s t) ∧
  (∀ s : State, s.status.busy = true → exec .block s = .next (raiseError .busyWrite s)) ∧
  (∀ (s : State) (v : Word), cmdOp v = 0x2 → v ≠ 0x00000002 → s.status.busy = false →
    transact (.write 0x40#8 4 v) s = .next (raiseError .illegalCmd s))

/-- FINAL n issue (43_finalization.md R158), for every n in 0..64: PEND, BUSY and DONE; ERR and ECODE and all else unchanged. Busy: BUSY_WRITE. A FINAL word with n > 64 or a reserved bit set: ILLEGAL_CMD. -/
def Obligations.FinalIssueStartsTheOperation : Prop :=
  (∀ (s : State) (n : BitVec 7) (hn : n.toNat ≤ 64), s.status.busy = false →
    (encode (.final n)).toNat = 3 + 256 * n.toNat ∧
    ∃ t, exec (.final n) s = .next t ∧ t.pend = .finalOp ⟨n.toNat, by omega⟩ ∧
      t.status.busy = true ∧ t.status.done = false ∧ t.status.err = s.status.err ∧ t.status.ecode = s.status.ecode ∧
      t.h = s.h ∧ t.buf = s.buf ∧ t.total = s.total ∧ t.scratch = s.scratch ∧ SameOutside s t) ∧
  (∀ (s : State) (n : BitVec 7), s.status.busy = true → exec (.final n) s = .next (raiseError .busyWrite s)) ∧
  (∀ (s : State) (n : BitVec 7), 64 < n.toNat → s.status.busy = false →
    exec (.final n) s = .next (raiseError .illegalCmd s)) ∧
  (∀ (s : State) (v : Word), cmdOp v = 0x3 → (64 < (cmdNbytes v).toNat ∨ cmdRsv0 v ≠ 0 ∨ cmdRsv1 v ≠ 0) →
    s.status.busy = false → transact (.write 0x40#8 4 v) s = .next (raiseError .illegalCmd s))

/-- Which state each command may write (10_state.md R36), column by column, over all commands and all states. None writes BUF, the scratch or the outside. On a busy block a command only records BUSY_WRITE; a FINAL above 64 only records ILLEGAL_CMD. A well-formed command on an idle block: H and TOTAL change by INIT alone; PEND and BUSY by BLOCK and FINAL alone, which set BUSY; DONE is cleared by INIT, BLOCK and FINAL and kept by NOP and CLRERR; ERR and ECODE are cleared by INIT and CLRERR and kept by NOP, BLOCK and FINAL. -/
def Obligations.CommandsWriteOnlyWhatRule36Allows : Prop :=
  ∀ (i : Instr) (s t : State), exec i s = .next t →
    t.buf = s.buf ∧ t.scratch = s.scratch ∧ SameOutside s t ∧
    (s.status.busy = true → t = raiseError .busyWrite s) ∧
    (s.status.busy = false → i.wellFormed = false → t = raiseError .illegalCmd s) ∧
    (s.status.busy = false → i.wellFormed = true →
      let starts := i = .block ∨ ∃ n, i = .final n
      (i = .init → t.h = iv ∧ t.total = 0#64) ∧ (i ≠ .init → t.h = s.h ∧ t.total = s.total) ∧
      (starts → t.pend ≠ .none ∧ t.status.busy = true) ∧ (¬starts → t.pend = s.pend ∧ t.status.busy = false) ∧
      (i = .init ∨ starts → t.status.done = false) ∧ (i = .nop ∨ i = .clrerr → t.status.done = s.status.done) ∧
      (i = .init ∨ i = .clrerr → t.status.err = false ∧ t.status.ecode = none) ∧
      (i = .nop ∨ starts → t.status.err = s.status.err ∧ t.status.ecode = s.status.ecode))

/-! ### The engine -/

/-- A compression run in the scratch, round by round, is the pure function Compress on H, whatever the scratch held: it is never read before it is written (10_state.md R29, 42_compression.md R137). Nothing but H changes; the scratch is dead afterwards (log 5). -/
def Obligations.ScratchRunIsCompress : Prop :=
  ∀ (b : Vector Byte 64) (s : State),
    compressInState b s = (s.setH (compress s.h b)).setScratch Scratch.dead

/-- BLOCK completion (42_compression.md R139): the engine's turn with BLOCKOP pending. That the scratch is zero afterwards is the model's choice (log 5). -/
def Obligations.EngineCompletesBlock : Prop :=
  ∀ (s : State) (rest : List Event), s.agenda = .engine :: rest → s.pend = .blockOp →
    ∃ t, step s = .next t ∧ t.h = compress s.h s.buf ∧ t.total.toNat = (s.total.toNat + 64) % 2 ^ 64 ∧
      t.pend = .none ∧ t.status.busy = false ∧ t.status.done = s.status.done ∧ t.status.err = s.status.err ∧
      t.status.ecode = s.status.ecode ∧ t.buf = s.buf ∧ t.scratch = Scratch.dead ∧
      t.agenda = rest ∧ t.replies = s.replies ∧ t.draws = s.draws

/-- FINAL n completion (43_finalization.md R159, R160): the engine's turn with FINALOP(n) pending. That the scratch is zero afterwards is the model's choice (log 5). -/
def Obligations.EngineCompletesFinal : Prop :=
  ∀ (s : State) (rest : List Event) (n : Fin 65), s.agenda = .engine :: rest → s.pend = .finalOp n →
    ∃ t, step s = .next t ∧ (t.h, t.total) = finalize s.h s.buf n s.total ∧
      t.total.toNat = (s.total.toNat + n.val) % 2 ^ 64 ∧
      t.pend = .none ∧ t.status.busy = false ∧ t.status.done = true ∧ t.status.err = s.status.err ∧
      t.status.ecode = s.status.ecode ∧ t.buf = s.buf ∧ t.scratch = Scratch.dead ∧
      t.agenda = rest ∧ t.replies = s.replies ∧ t.draws = s.draws

/-- With nothing pending the engine has no step (00_scope.md R7): its turn changes nothing, and a program that has ended (70_reset_and_hazards.md R231) stays as it is. The turn that passes is the model's (log 7). -/
def Obligations.IdleEngineChangesNothing : Prop :=
  ∀ s : State, s.pend = .none →
    (∀ rest, s.agenda = .engine :: rest → step s = .next (s.setAgenda rest)) ∧ (s.agenda = [] → step s = .next s)

/-- Every finite run of events ends: one step for each event and one more, and nothing is pending and BUSY = 0 (70_reset_and_hazards.md R230, R231). The finite agenda is the model's form of fairness (log 1). -/
def Obligations.EveryProgramEnds : Prop :=
  ∀ s : State, Consistent s → ∃ t, Host.Core.run Sys2Proof.core (s.agenda.length + 1) s = .next t ∧ Ended t

/-- While BUSY = 1 no host transaction, however many, changes H, BUF, TOTAL, PEND, BUSY or DONE: the operation reads at completion what it would have read at issue (10_state.md R35, 60_exceptions.md R193). -/
def Obligations.HostCannotDisturbThePendingOperation : Prop :=
  ∀ (txns : List Txn) (rest : List Event) (s : State), s.status.busy = true → s.agenda = txns.map .bus ++ rest →
    ∃ t, Host.Core.run Sys2Proof.core txns.length s = .next t ∧ t.h = s.h ∧ t.buf = s.buf ∧ t.total = s.total ∧
      t.pend = s.pend ∧ t.status.busy = true ∧ t.status.done = s.status.done ∧ t.scratch = s.scratch ∧ t.agenda = rest

/-- How many compressions an operation takes (70_reset_and_hazards.md R230), tied to the engine: its turn runs exactly that many, none, one, or one or two on the padded blocks in order, and retires the operation; BLOCK takes one, FINAL n one for n ≤ 55 and two for n ≥ 56. The cycles are that count times P_LAT_BLOCK, which is at least 1; the model has no time, and the count of cycles stands beside the engine, read by no step (log 10). -/
def Obligations.CyclesFollowTheCompressions : Prop :=
  (∀ s : State,
    (s.pend = .none → Pend.none.compressions = 0 ∧ engineStep s = s) ∧
    (s.pend = .blockOp →
      engineStep s = retireBlock ((compressInState s.buf)^[Pend.blockOp.compressions] s)) ∧
    (∀ n : Fin 65, s.pend = .finalOp n →
      engineStep s = retireFinal n
        ((List.range (Pend.finalOp n).compressions).foldl (fun u k => compressInState (paddedBlockOf n k s) u) s))) ∧
  Pend.blockOp.compressions = 1 ∧
  (∀ n : Fin 65, (n.val ≤ 55 → (Pend.finalOp n).compressions = 1) ∧ (56 ≤ n.val → (Pend.finalOp n).compressions = 2)) ∧
  1 ≤ Config.pLatBlock ∧ (∀ p : Pend, p.cycles = p.compressions * Config.pLatBlock)

/-! ### The bus -/

/-- The check (60_exceptions.md R194) by its verdicts, on the offsets R51 writes out: which accesses fail, with which code, in R195's priority, and which pass. -/
def Obligations.CheckReportsTheFirstCause : Prop :=
  ∀ (s : State) (off : BitVec 8) (size : Nat) (dir : Dir) (v : Word),
    let o := off.toNat
    let sized := (size = 1 ∨ size = 4) ∧ (size = 4 → o % 4 = 0)
    let unmapped := (0x54 ≤ o ∧ o ≤ 0x5F) ∨ 0xA0 ≤ o
    let byteWide := o ≤ 0x3F ∨ (0x80 ≤ o ∧ o ≤ 0x9F)
    let readOnly := (0x44 ≤ o ∧ o ≤ 0x47) ∨ (0x50 ≤ o ∧ o ≤ 0x53) ∨ (0x80 ≤ o ∧ o ≤ 0x9F)
    let isCmd := 0x40 ≤ o ∧ o ≤ 0x43
    let legal := sized ∧ ¬unmapped ∧ (size = 1 → byteWide)
    (check s off size dir v = some .badSize ↔ ¬sized ∨ (¬unmapped ∧ size = 1 ∧ ¬byteWide)) ∧
    (check s off size dir v = some .badOffset ↔ sized ∧ unmapped) ∧
    (check s off size dir v = some .roWrite ↔ legal ∧ dir = .write ∧ readOnly) ∧
    (check s off size dir v = some .busyWrite ↔ legal ∧ dir = .write ∧ ¬readOnly ∧ s.status.busy = true) ∧
    (check s off size dir v = some .illegalCmd ↔
      legal ∧ dir = .write ∧ s.status.busy = false ∧ isCmd ∧ legalCmd v = false) ∧
    (check s off size dir v = none ↔
      legal ∧ (dir = .write → ¬readOnly ∧ s.status.busy = false ∧ (isCmd → legalCmd v = true)))

/-- A refused transaction changes nothing but the error record, and a refused read returns 0 (20_memory.md R63, 60_exceptions.md R193). -/
def Obligations.RefusedTransactionOnlyRecordsItsError : Prop :=
  ∀ (s : State) (off : BitVec 8) (size : Nat) (c : ErrorCode),
    (check s off size .read 0#32 = some c →
      ∃ t, transact (.read off size) s = .next t ∧ t.status = s.status.raise c ∧ t.h = s.h ∧ t.buf = s.buf ∧
        t.total = s.total ∧ t.pend = s.pend ∧ t.scratch = s.scratch ∧ t.agenda = s.agenda ∧
        t.replies = 0#32 :: s.replies ∧ t.draws = s.draws) ∧
    (∀ v : Word, check s off size .write v = some c →
      ∃ t, transact (.write off size v) s = .next t ∧ t.status = s.status.raise c ∧ t.h = s.h ∧ t.buf = s.buf ∧
        t.total = s.total ∧ t.pend = s.pend ∧ t.scratch = s.scratch ∧ SameOutside s t)

/-- raise Error(code) (60_exceptions.md R192): the first error is recorded and kept; and over one step of any machine, an error record goes away only with a reset, or with INIT or CLRERR. -/
def Obligations.FirstErrorIsKept : Prop :=
  (∀ (c : ErrorCode) (s : State),
    (s.status.err = false → (raiseError c s).status.err = true ∧ (raiseError c s).status.ecode = some c) ∧
    (s.status.err = true → raiseError c s = s)) ∧
  (∀ s t : State, s.status.err = true → step s = .next t →
    (t.status.err = true ∧ t.status.ecode = s.status.ecode) ∨
    (∃ rest, s.agenda = .reset :: rest) ∨
    (∃ v rest, s.agenda = .bus (.write 0x40#8 4 v) :: rest ∧ (v = encode .init ∨ v = encode .clrerr)))

/-- Byte access to BUF on an idle block (20_memory.md R54). -/
def Obligations.BufByteAccess : Prop :=
  ∀ (s : State) (k : Nat), k < 64 → s.status.busy = false →
    transact (.read (BitVec.ofNat 8 k) 1) s = .next (reply ((byteAt s.buf k).setWidth 32) s) ∧
    ∀ v : Word, ∃ t, transact (.write (BitVec.ofNat 8 k) 1 v) s = .next t ∧
      byteAt t.buf k = v.extractLsb' 0 8 ∧ (∀ j, j ≠ k → byteAt t.buf j = byteAt s.buf j) ∧
      t.h = s.h ∧ t.total = s.total ∧ t.status = s.status ∧ t.pend = s.pend ∧ t.scratch = s.scratch ∧ SameOutside s t

/-- Word access to BUF on an idle block, big-endian lanes (20_memory.md R55): the word written at 4j is the schedule word W[j]. -/
def Obligations.BufWordAccess : Prop :=
  ∀ (s : State) (j : Nat), j < 16 → s.status.busy = false →
    transact (.read (BitVec.ofNat 8 (4 * j)) 4) s =
      .next (reply (byteAt s.buf (4 * j) ++ byteAt s.buf (4 * j + 1) ++ byteAt s.buf (4 * j + 2) ++ byteAt s.buf (4 * j + 3)) s) ∧
    ∀ v : Word, ∃ t, transact (.write (BitVec.ofNat 8 (4 * j)) 4 v) s = .next t ∧
      byteAt t.buf (4 * j) = v.extractLsb' 24 8 ∧ byteAt t.buf (4 * j + 1) = v.extractLsb' 16 8 ∧
      byteAt t.buf (4 * j + 2) = v.extractLsb' 8 8 ∧ byteAt t.buf (4 * j + 3) = v.extractLsb' 0 8 ∧
      (∀ k, k < 4 * j ∨ 4 * j + 4 ≤ k → byteAt t.buf k = byteAt s.buf k) ∧
      be32 t.buf (4 * j) = v ∧ (∀ w0, wordAt (schedule t.buf w0) j = v) ∧
      t.h = s.h ∧ t.total = s.total ∧ t.status = s.status ∧ t.pend = s.pend ∧ t.scratch = s.scratch ∧ SameOutside s t

/-- Word access to H on an idle block (20_memory.md R56). -/
def Obligations.HWordAccess : Prop :=
  ∀ (s : State) (i : Nat), i < 8 → s.status.busy = false →
    transact (.read (BitVec.ofNat 8 (0x60 + 4 * i)) 4) s = .next (reply (wordAt s.h i) s) ∧
    ∀ v : Word, ∃ t, transact (.write (BitVec.ofNat 8 (0x60 + 4 * i)) 4 v) s = .next t ∧
      wordAt t.h i = v ∧ (∀ j, j ≠ i → wordAt t.h j = wordAt s.h j) ∧
      t.buf = s.buf ∧ t.total = s.total ∧ t.status = s.status ∧ t.pend = s.pend ∧ t.scratch = s.scratch ∧ SameOutside s t

/-- Word access to the halves of TOTAL on an idle block (20_memory.md R57): a write to one half leaves the other. -/
def Obligations.TotalHalvesAccess : Prop :=
  ∀ s : State, s.status.busy = false →
    transact (.read 0x48#8 4) s = .next (reply (s.total.extractLsb' 0 32) s) ∧
    transact (.read 0x4C#8 4) s = .next (reply (s.total.extractLsb' 32 32) s) ∧
    (∀ v : Word, transact (.write 0x48#8 4 v) s = .next (s.setTotal (s.total.extractLsb' 32 32 ++ v))) ∧
    (∀ v : Word, transact (.write 0x4C#8 4 v) s = .next (s.setTotal (v ++ s.total.extractLsb' 0 32)))

/-- STATUS reads (20_memory.md R58, 10_state.md R24), busy or not: the fields at their bits, ECODE by its number (60_exceptions.md R191), the reserved bits 0, and no side effect but the reply. -/
def Obligations.StatusReadsExactlyAtAnyTime : Prop :=
  ∀ s : State, ∃ w : Word, transact (.read 0x44#8 4) s = .next (reply w s) ∧
    w.getLsbD 0 = s.status.busy ∧ w.getLsbD 1 = s.status.done ∧ w.getLsbD 2 = s.status.err ∧ w.getLsbD 3 = false ∧
    (w.extractLsb' 4 4 = match s.status.ecode with
      | none => 0
      | some .illegalCmd => 1
      | some .busyWrite => 2
      | some .badOffset => 3
      | some .badSize => 4
      | some .roWrite => 5) ∧
    w.extractLsb' 8 24 = 0

/-- CMD reads 0 and ID reads 0x53323536, busy or not, and record no error (20_memory.md R59, R60). -/
def Obligations.CmdAndIdReadExactlyAtAnyTime : Prop :=
  ∀ s : State, transact (.read 0x40#8 4) s = .next (reply 0#32 s) ∧ transact (.read 0x50#8 4) s = .next (reply 0x53323536 s)

/-- DIGEST reads on an idle block, whatever DONE (20_memory.md R61): byte 4i + j is byte j of H[i], the most significant first, and a word is H[i]. -/
def Obligations.DigestReads : Prop :=
  ∀ (s : State) (i : Nat), i < 8 → s.status.busy = false →
    transact (.read (BitVec.ofNat 8 (0x80 + 4 * i)) 4) s = .next (reply (wordAt s.h i) s) ∧
    ∀ j, j < 4 → transact (.read (BitVec.ofNat 8 (0x80 + 4 * i + j)) 1) s =
      .next (reply (((wordAt s.h i).extractLsb' (24 - 8 * j) 8).setWidth 32) s)

/-- Reads that pass the check while busy (20_memory.md R62): of BUF, TOTAL, H or DIGEST an unspecified value, any word or any byte, drawn afresh, with no error and no change of the block; of CMD, STATUS and ID the exact value. How the value is drawn, Config.unspec at the draw counter, which then goes up by one, is the model's choice (log 4). Holds for every value of the counter. -/
def Obligations.BusyDataReadIsAFreeDraw : Prop :=
  ∀ (s : State) (off : BitVec 8) (size : Nat), s.status.busy = true → check s off size .read 0#32 = none →
    ((region off = .buf ∨ region off = .totalLo ∨ region off = .totalHi ∨ region off = .h ∨ region off = .digest) →
      ∃ (v : Word) (t : State), transact (.read off size) s = .next t ∧ t.replies = v :: s.replies ∧
        (size = 4 → v = Config.unspec s.draws) ∧
        (size = 1 → v = ((Config.unspec s.draws).extractLsb' 0 8).setWidth 32 ∧ v.toNat ≤ 255) ∧
        t.draws = s.draws + 1 ∧ t.agenda = s.agenda ∧ SameBlock s t) ∧
    ((region off = .cmd ∨ region off = .status ∨ region off = .id) →
      transact (.read off size) s = .next (reply (readReg s off size) s))

/-- A read that passes the check has no side effect on the block, busy or not (20_memory.md R66). -/
def Obligations.SuccessfulReadsHaveNoSideEffect : Prop :=
  ∀ (s : State) (off : BitVec 8) (size : Nat), check s off size .read 0#32 = none →
    ∃ t v, transact (.read off size) s = .next t ∧ SameBlock s t ∧ t.agenda = s.agenda ∧ t.replies = v :: s.replies

/-- A word view and its four byte views agree, in BUF and in DIGEST (20_memory.md R64). -/
def Obligations.WordViewsAgreeWithByteViews : Prop :=
  ∀ (s : State) (m : Nat), m < 4 →
    (∀ j, j < 16 → (readReg s (BitVec.ofNat 8 (4 * j)) 4).extractLsb' (24 - 8 * m) 8 =
      (readReg s (BitVec.ofNat 8 (4 * j + m)) 1).extractLsb' 0 8) ∧
    (∀ i, i < 8 → (readReg s (BitVec.ofNat 8 (0x80 + 4 * i)) 4).extractLsb' (24 - 8 * m) 8 =
      (readReg s (BitVec.ofNat 8 (0x80 + 4 * i + m)) 1).extractLsb' 0 8)

/-! ### Words and bytes -/

/-- Right rotation bit by bit, and as the two shifts of R103, for the amounts 1 to 31; 0 and 32 give x. -/
def Obligations.RotrMovesBits : Prop :=
  ∀ x : Word,
    (∀ n, 1 ≤ n → n ≤ 31 →
      (∀ i, i < 32 → (rotr x n).getLsbD i = x.getLsbD ((i + n) % 32)) ∧
      (rotr x n).toNat = (x.toNat / 2 ^ n) ||| (x.toNat * 2 ^ (32 - n) % 2 ^ 32)) ∧
    rotr x 0 = x ∧ rotr x 32 = x

/-- σ0 and σ1 bit by bit: three source bits, or two where the shift brings in a zero; and both are linear over ⊕ (40_mixing.md R104, R105). -/
def Obligations.SmallSigmasBitwiseAndLinear : Prop :=
  (∀ (x : Word) (i : Nat), i < 32 →
    (smallSigma0 x).getLsbD i = ((x.getLsbD ((i + 7) % 32) ^^ x.getLsbD ((i + 18) % 32)) ^^ (decide (i + 3 < 32) && x.getLsbD (i + 3))) ∧
    (smallSigma1 x).getLsbD i = ((x.getLsbD ((i + 17) % 32) ^^ x.getLsbD ((i + 19) % 32)) ^^ (decide (i + 10 < 32) && x.getLsbD (i + 10)))) ∧
  (∀ x y : Word, smallSigma0 (x ^^^ y) = smallSigma0 x ^^^ smallSigma0 y ∧ smallSigma1 (x ^^^ y) = smallSigma1 x ^^^ smallSigma1 y)

/-- Σ0 and Σ1 bit by bit (40_mixing.md R106, R107). -/
def Obligations.BigSigmasBitwise : Prop :=
  ∀ (x : Word) (i : Nat), i < 32 →
    (bigSigma0 x).getLsbD i = ((x.getLsbD ((i + 2) % 32) ^^ x.getLsbD ((i + 13) % 32)) ^^ x.getLsbD ((i + 22) % 32)) ∧
    (bigSigma1 x).getLsbD i = ((x.getLsbD ((i + 6) % 32) ^^ x.getLsbD ((i + 11) % 32)) ^^ x.getLsbD ((i + 25) % 32))

/-- Ch and Maj bit by bit (40_mixing.md R110): Ch chooses, Maj is 1 exactly when at least two bits are. -/
def Obligations.ChChoosesAndMajVotes : Prop :=
  ∀ (x y z : Word) (i : Nat), i < 32 →
    (ch x y z).getLsbD i = (if x.getLsbD i = true then y.getLsbD i else z.getLsbD i) ∧
    ((maj x y z).getLsbD i = true ↔ 2 ≤ (x.getLsbD i).toNat + (y.getLsbD i).toNat + (z.getLsbD i).toNat)

/-- BE32 as a sum of its bytes (41_byte_order.md R120), and Ser32 as its inverse (R123). -/
def Obligations.BigEndianConversionsAreInverse : Prop :=
  (∀ (n k : Nat) (b : Vector Byte n), k + 3 < n →
    (be32 b k).toNat = (byteAt b k).toNat * 2 ^ 24 + (byteAt b (k + 1)).toNat * 2 ^ 16 + (byteAt b (k + 2)).toNat * 2 ^ 8 + (byteAt b (k + 3)).toNat) ∧
  (∀ w : Word, (ser32 w).toList = [w.extractLsb' 24 8, w.extractLsb' 16 8, w.extractLsb' 8 8, w.extractLsb' 0 8] ∧ be32 (ser32 w) 0 = w) ∧
  (∀ b : Vector Byte 4, ser32 (be32 b 0) = b)

/-- BE64 (41_byte_order.md R122) byte by byte, and Digest as the DIGEST view numbers it (10_state.md R27, 41_byte_order.md R124): byte 4i + j is byte j of Ser32(H[i]), bits 31-8j to 24-8j of H[i]. -/
def Obligations.LengthAndDigestSerialization : Prop :=
  (∀ (l : BitVec 64) (j : Nat), j < 8 → byteAt (be64 l) j = l.extractLsb' (56 - 8 * j) 8) ∧
  (∀ (h : Vector Word 8) (i j : Nat), i < 8 → j < 4 →
    byteAt (digest h) (4 * i + j) = byteAt (ser32 (wordAt h i)) j ∧
    byteAt (digest h) (4 * i + j) = (wordAt h i).extractLsb' (24 - 8 * j) 8)

/-! ### Compression -/

/-- The schedule (42_compression.md R131, R132): the block's words, then the recurrence on the schedule itself; whatever the array held before. -/
def Obligations.ScheduleRecurrence : Prop :=
  ∀ (b : Vector Byte 64) (w0 : Vector Word 64),
    (∀ t, t < 16 → wordAt (schedule b w0) t = be32 b (4 * t)) ∧
    (∀ t, 16 ≤ t → t < 64 → wordAt (schedule b w0) t =
      smallSigma1 (wordAt (schedule b w0) (t - 2)) + wordAt (schedule b w0) (t - 7)
        + smallSigma0 (wordAt (schedule b w0) (t - 15)) + wordAt (schedule b w0) (t - 16))

/-- The 16-word sliding window computes the schedule of the 64-word array (42_compression.md R132): after k slides it holds W[k..k+15]. -/
def Obligations.SlidingWindowComputesTheSchedule : Prop :=
  ∀ (b : Vector Byte 64) (w0 : Vector Word 64) (k j : Nat), k ≤ 48 → j < 16 →
    wordAt (slideWindow^[k] (blockWords b)) j = wordAt (schedule b w0) (k + j)

/-- One round in the scratch (42_compression.md R134, R135): all eight variables from the values before it, the schedule as it was, and t moved on. -/
def Obligations.ScratchRoundAssignsAtOnce : Prop :=
  ∀ x : Scratch,
    let v := x.vars
    let t1 := v.h + bigSigma1 v.e + ch v.e v.f v.g + wordAt roundK x.t + wordAt x.w x.t
    let t2 := bigSigma0 v.a + maj v.a v.b v.c
    (scratchRound x).vars = ⟨t1 + t2, v.a, v.b, v.c, v.d + t1, v.e, v.f, v.g⟩ ∧
    (scratchRound x).w = x.w ∧ (scratchRound x).t.val = (x.t.val + 1) % 64

/-- Compress adds the variables after the 64 rounds into the words it started from, each on its own (42_compression.md R133, R136). -/
def Obligations.CompressAddsBack : Prop :=
  ∀ (h : Vector Word 8) (b : Vector Byte 64) (w0 : Vector Word 64),
    let v := rounds (schedule b w0) ⟨wordAt h 0, wordAt h 1, wordAt h 2, wordAt h 3, wordAt h 4, wordAt h 5, wordAt h 6, wordAt h 7⟩ 64
    (compress h b).toList = [wordAt h 0 + v.a, wordAt h 1 + v.b, wordAt h 2 + v.c, wordAt h 3 + v.d,
      wordAt h 4 + v.e, wordAt h 5 + v.f, wordAt h 6 + v.g, wordAt h 7 + v.h]

/-! ### Finalization -/

/-- TOTAL' and the bit length (43_finalization.md R151), wrapping. -/
def Obligations.BitLengthIsTotalTimesEight : Prop :=
  ∀ (total : BitVec 64) (n : Nat), n ≤ 64 →
    (finalTotal total n).toNat = (total.toNat + n) % 2 ^ 64 ∧
    (bitLength (finalTotal total n)).toNat = (finalTotal total n).toNat * 8 % 2 ^ 64 ∧
    bitLength (finalTotal total n) = (finalTotal total n).extractLsb' 0 61 ++ 0#3

/-- The one-block path, n ≤ 55 (43_finalization.md R154): the block, and exactly one compression. -/
def Obligations.OneBlockPadding : Prop :=
  ∀ (b : Vector Byte 64) (n : Nat) (l : BitVec 64), n ≤ 55 →
    paddedLength n = 64 ∧
    (padBlock b n l 0).toList = b.toList.take n ++ [0x80#8] ++ List.replicate (55 - n) 0#8 ++ (be64 l).toList ∧
    ∀ s : State, compressPadded n s = compressInState (paddedBlockOf n 0 s) s

/-- The two-block path, 56 ≤ n ≤ 63 (43_finalization.md R155): the blocks, and two compressions, P0 first. -/
def Obligations.TwoBlockPadding : Prop :=
  ∀ (b : Vector Byte 64) (n : Nat) (l : BitVec 64), 56 ≤ n → n ≤ 63 →
    paddedLength n = 128 ∧
    (padBlock b n l 0).toList = b.toList.take n ++ [0x80#8] ++ List.replicate (63 - n) 0#8 ∧
    (padBlock b n l 1).toList = List.replicate 56 0#8 ++ (be64 l).toList ∧
    ∀ s : State, compressPadded n s = compressInState (paddedBlockOf n 1 s) (compressInState (paddedBlockOf n 0 s) s)

/-- The full-block path, n = 64 (43_finalization.md R156): BUF unchanged, then the marker at the start of the second block; two compressions. -/
def Obligations.FullBlockPadding : Prop :=
  ∀ (b : Vector Byte 64) (l : BitVec 64),
    paddedLength 64 = 128 ∧ padBlock b 64 l 0 = b ∧
    (padBlock b 64 l 1).toList = [0x80#8] ++ List.replicate 55 0#8 ++ (be64 l).toList ∧
    ∀ s : State, compressPadded 64 s = compressInState (paddedBlockOf 64 1 s) (compressInState (paddedBlockOf 64 0 s) s)

/-- FINAL n ignores BUF[n..63] (43_finalization.md R157, R161): two states that differ only there complete to the same H, TOTAL and STATUS, and each keeps its BUF. -/
def Obligations.FinalIgnoresTheTailOfBuf : Prop :=
  ∀ (s : State) (b' : Vector Byte 64) (n : Fin 65), s.pend = .finalOp n →
    (∀ k, k < n.val → byteAt b' k = byteAt s.buf k) →
    engineStep (s.setBuf b') = (engineStep s).setBuf b'

/-- FINAL 64 leaves the same H and TOTAL as BLOCK followed by FINAL 0, for every H, BUF and TOTAL (43_finalization.md R161, item 3); STATUS and all else agree too. -/
def Obligations.Final64IsBlockThenFinal0 : Prop :=
  ∀ (s : State) (rest : List Event), Idle s →
    ∃ t, Host.Core.run Sys2Proof.core 2 (s.setAgenda ([command (.final 64), .engine] ++ rest)) = .next t ∧
      Host.Core.run Sys2Proof.core 4 (s.setAgenda ([command .block, .engine, command (.final 0), .engine] ++ rest)) = .next t

/-- The host protocol (70_reset_and_hazards.md R223) computes SHA-256, from any idle block, for every message and every fair schedule of the engine: the final H is the standard's, DONE is set, TOTAL counts the bytes, and the last eight replies are H[0..7]. The reference is the model's reading of FIPS 180-4 (log 16), the program's expansion log 11. -/
def Obligations.HostProtocolComputesSha256 : Prop :=
  ∀ (s : State) (m : List Byte) (waits : Nat → Nat), Idle s →
    ∃ t, Host.Core.run Sys2Proof.core (messageProgram waits m).length (s.setAgenda (messageProgram waits m)) = .next t ∧
      t.h = sha256 m ∧ t.total = BitVec.ofNat 64 m.length ∧ t.status.word = 2#32 ∧ Ended t ∧
      (t.replies.take 8).reverse = t.h.toList
end

