-- ==== Sys2Proof/Laws/State.lean ====
section
/-! SUPPORT. Each named update of State against each field: the field it sets, and the eight it leaves. -/

namespace Sys2Proof.Machine

@[simp] theorem State.setH_h (s : State) (x : Vector Word 8) : (s.setH x).h = x := rfl
@[simp] theorem State.setH_buf (s : State) (x : Vector Word 8) : (s.setH x).buf = s.buf := rfl
@[simp] theorem State.setH_total (s : State) (x : Vector Word 8) : (s.setH x).total = s.total := rfl
@[simp] theorem State.setH_status (s : State) (x : Vector Word 8) : (s.setH x).status = s.status := rfl
@[simp] theorem State.setH_pend (s : State) (x : Vector Word 8) : (s.setH x).pend = s.pend := rfl
@[simp] theorem State.setH_scratch (s : State) (x : Vector Word 8) : (s.setH x).scratch = s.scratch := rfl
@[simp] theorem State.setH_agenda (s : State) (x : Vector Word 8) : (s.setH x).agenda = s.agenda := rfl
@[simp] theorem State.setH_replies (s : State) (x : Vector Word 8) : (s.setH x).replies = s.replies := rfl
@[simp] theorem State.setH_draws (s : State) (x : Vector Word 8) : (s.setH x).draws = s.draws := rfl

@[simp] theorem State.setH_self (s : State) : s.setH s.h = s := rfl
@[simp] theorem State.setH_setH (s : State) (x y : Vector Word 8) : (s.setH x).setH y = s.setH y := rfl

@[simp] theorem State.setBuf_h (s : State) (x : Vector Byte 64) : (s.setBuf x).h = s.h := rfl
@[simp] theorem State.setBuf_buf (s : State) (x : Vector Byte 64) : (s.setBuf x).buf = x := rfl
@[simp] theorem State.setBuf_total (s : State) (x : Vector Byte 64) : (s.setBuf x).total = s.total := rfl
@[simp] theorem State.setBuf_status (s : State) (x : Vector Byte 64) : (s.setBuf x).status = s.status := rfl
@[simp] theorem State.setBuf_pend (s : State) (x : Vector Byte 64) : (s.setBuf x).pend = s.pend := rfl
@[simp] theorem State.setBuf_scratch (s : State) (x : Vector Byte 64) : (s.setBuf x).scratch = s.scratch := rfl
@[simp] theorem State.setBuf_agenda (s : State) (x : Vector Byte 64) : (s.setBuf x).agenda = s.agenda := rfl
@[simp] theorem State.setBuf_replies (s : State) (x : Vector Byte 64) : (s.setBuf x).replies = s.replies := rfl
@[simp] theorem State.setBuf_draws (s : State) (x : Vector Byte 64) : (s.setBuf x).draws = s.draws := rfl

@[simp] theorem State.setBuf_self (s : State) : s.setBuf s.buf = s := rfl
@[simp] theorem State.setBuf_setBuf (s : State) (x y : Vector Byte 64) : (s.setBuf x).setBuf y = s.setBuf y := rfl

@[simp] theorem State.setTotal_h (s : State) (x : BitVec 64) : (s.setTotal x).h = s.h := rfl
@[simp] theorem State.setTotal_buf (s : State) (x : BitVec 64) : (s.setTotal x).buf = s.buf := rfl
@[simp] theorem State.setTotal_total (s : State) (x : BitVec 64) : (s.setTotal x).total = x := rfl
@[simp] theorem State.setTotal_status (s : State) (x : BitVec 64) : (s.setTotal x).status = s.status := rfl
@[simp] theorem State.setTotal_pend (s : State) (x : BitVec 64) : (s.setTotal x).pend = s.pend := rfl
@[simp] theorem State.setTotal_scratch (s : State) (x : BitVec 64) : (s.setTotal x).scratch = s.scratch := rfl
@[simp] theorem State.setTotal_agenda (s : State) (x : BitVec 64) : (s.setTotal x).agenda = s.agenda := rfl
@[simp] theorem State.setTotal_replies (s : State) (x : BitVec 64) : (s.setTotal x).replies = s.replies := rfl
@[simp] theorem State.setTotal_draws (s : State) (x : BitVec 64) : (s.setTotal x).draws = s.draws := rfl

@[simp] theorem State.setTotal_self (s : State) : s.setTotal s.total = s := rfl
@[simp] theorem State.setTotal_setTotal (s : State) (x y : BitVec 64) : (s.setTotal x).setTotal y = s.setTotal y := rfl

@[simp] theorem State.setStatus_h (s : State) (x : Status) : (s.setStatus x).h = s.h := rfl
@[simp] theorem State.setStatus_buf (s : State) (x : Status) : (s.setStatus x).buf = s.buf := rfl
@[simp] theorem State.setStatus_total (s : State) (x : Status) : (s.setStatus x).total = s.total := rfl
@[simp] theorem State.setStatus_status (s : State) (x : Status) : (s.setStatus x).status = x := rfl
@[simp] theorem State.setStatus_pend (s : State) (x : Status) : (s.setStatus x).pend = s.pend := rfl
@[simp] theorem State.setStatus_scratch (s : State) (x : Status) : (s.setStatus x).scratch = s.scratch := rfl
@[simp] theorem State.setStatus_agenda (s : State) (x : Status) : (s.setStatus x).agenda = s.agenda := rfl
@[simp] theorem State.setStatus_replies (s : State) (x : Status) : (s.setStatus x).replies = s.replies := rfl
@[simp] theorem State.setStatus_draws (s : State) (x : Status) : (s.setStatus x).draws = s.draws := rfl

@[simp] theorem State.setStatus_self (s : State) : s.setStatus s.status = s := rfl
@[simp] theorem State.setStatus_setStatus (s : State) (x y : Status) : (s.setStatus x).setStatus y = s.setStatus y := rfl

@[simp] theorem State.setPend_h (s : State) (x : Pend) : (s.setPend x).h = s.h := rfl
@[simp] theorem State.setPend_buf (s : State) (x : Pend) : (s.setPend x).buf = s.buf := rfl
@[simp] theorem State.setPend_total (s : State) (x : Pend) : (s.setPend x).total = s.total := rfl
@[simp] theorem State.setPend_status (s : State) (x : Pend) : (s.setPend x).status = s.status := rfl
@[simp] theorem State.setPend_pend (s : State) (x : Pend) : (s.setPend x).pend = x := rfl
@[simp] theorem State.setPend_scratch (s : State) (x : Pend) : (s.setPend x).scratch = s.scratch := rfl
@[simp] theorem State.setPend_agenda (s : State) (x : Pend) : (s.setPend x).agenda = s.agenda := rfl
@[simp] theorem State.setPend_replies (s : State) (x : Pend) : (s.setPend x).replies = s.replies := rfl
@[simp] theorem State.setPend_draws (s : State) (x : Pend) : (s.setPend x).draws = s.draws := rfl

@[simp] theorem State.setPend_self (s : State) : s.setPend s.pend = s := rfl
@[simp] theorem State.setPend_setPend (s : State) (x y : Pend) : (s.setPend x).setPend y = s.setPend y := rfl

@[simp] theorem State.setScratch_h (s : State) (x : Scratch) : (s.setScratch x).h = s.h := rfl
@[simp] theorem State.setScratch_buf (s : State) (x : Scratch) : (s.setScratch x).buf = s.buf := rfl
@[simp] theorem State.setScratch_total (s : State) (x : Scratch) : (s.setScratch x).total = s.total := rfl
@[simp] theorem State.setScratch_status (s : State) (x : Scratch) : (s.setScratch x).status = s.status := rfl
@[simp] theorem State.setScratch_pend (s : State) (x : Scratch) : (s.setScratch x).pend = s.pend := rfl
@[simp] theorem State.setScratch_scratch (s : State) (x : Scratch) : (s.setScratch x).scratch = x := rfl
@[simp] theorem State.setScratch_agenda (s : State) (x : Scratch) : (s.setScratch x).agenda = s.agenda := rfl
@[simp] theorem State.setScratch_replies (s : State) (x : Scratch) : (s.setScratch x).replies = s.replies := rfl
@[simp] theorem State.setScratch_draws (s : State) (x : Scratch) : (s.setScratch x).draws = s.draws := rfl

@[simp] theorem State.setScratch_self (s : State) : s.setScratch s.scratch = s := rfl
@[simp] theorem State.setScratch_setScratch (s : State) (x y : Scratch) : (s.setScratch x).setScratch y = s.setScratch y := rfl

@[simp] theorem State.setAgenda_h (s : State) (x : List Event) : (s.setAgenda x).h = s.h := rfl
@[simp] theorem State.setAgenda_buf (s : State) (x : List Event) : (s.setAgenda x).buf = s.buf := rfl
@[simp] theorem State.setAgenda_total (s : State) (x : List Event) : (s.setAgenda x).total = s.total := rfl
@[simp] theorem State.setAgenda_status (s : State) (x : List Event) : (s.setAgenda x).status = s.status := rfl
@[simp] theorem State.setAgenda_pend (s : State) (x : List Event) : (s.setAgenda x).pend = s.pend := rfl
@[simp] theorem State.setAgenda_scratch (s : State) (x : List Event) : (s.setAgenda x).scratch = s.scratch := rfl
@[simp] theorem State.setAgenda_agenda (s : State) (x : List Event) : (s.setAgenda x).agenda = x := rfl
@[simp] theorem State.setAgenda_replies (s : State) (x : List Event) : (s.setAgenda x).replies = s.replies := rfl
@[simp] theorem State.setAgenda_draws (s : State) (x : List Event) : (s.setAgenda x).draws = s.draws := rfl

@[simp] theorem State.setAgenda_self (s : State) : s.setAgenda s.agenda = s := rfl
@[simp] theorem State.setAgenda_setAgenda (s : State) (x y : List Event) : (s.setAgenda x).setAgenda y = s.setAgenda y := rfl

@[simp] theorem State.setReplies_h (s : State) (x : List Word) : (s.setReplies x).h = s.h := rfl
@[simp] theorem State.setReplies_buf (s : State) (x : List Word) : (s.setReplies x).buf = s.buf := rfl
@[simp] theorem State.setReplies_total (s : State) (x : List Word) : (s.setReplies x).total = s.total := rfl
@[simp] theorem State.setReplies_status (s : State) (x : List Word) : (s.setReplies x).status = s.status := rfl
@[simp] theorem State.setReplies_pend (s : State) (x : List Word) : (s.setReplies x).pend = s.pend := rfl
@[simp] theorem State.setReplies_scratch (s : State) (x : List Word) : (s.setReplies x).scratch = s.scratch := rfl
@[simp] theorem State.setReplies_agenda (s : State) (x : List Word) : (s.setReplies x).agenda = s.agenda := rfl
@[simp] theorem State.setReplies_replies (s : State) (x : List Word) : (s.setReplies x).replies = x := rfl
@[simp] theorem State.setReplies_draws (s : State) (x : List Word) : (s.setReplies x).draws = s.draws := rfl

@[simp] theorem State.setReplies_self (s : State) : s.setReplies s.replies = s := rfl
@[simp] theorem State.setReplies_setReplies (s : State) (x y : List Word) : (s.setReplies x).setReplies y = s.setReplies y := rfl

@[simp] theorem State.setDraws_h (s : State) (x : Nat) : (s.setDraws x).h = s.h := rfl
@[simp] theorem State.setDraws_buf (s : State) (x : Nat) : (s.setDraws x).buf = s.buf := rfl
@[simp] theorem State.setDraws_total (s : State) (x : Nat) : (s.setDraws x).total = s.total := rfl
@[simp] theorem State.setDraws_status (s : State) (x : Nat) : (s.setDraws x).status = s.status := rfl
@[simp] theorem State.setDraws_pend (s : State) (x : Nat) : (s.setDraws x).pend = s.pend := rfl
@[simp] theorem State.setDraws_scratch (s : State) (x : Nat) : (s.setDraws x).scratch = s.scratch := rfl
@[simp] theorem State.setDraws_agenda (s : State) (x : Nat) : (s.setDraws x).agenda = s.agenda := rfl
@[simp] theorem State.setDraws_replies (s : State) (x : Nat) : (s.setDraws x).replies = s.replies := rfl
@[simp] theorem State.setDraws_draws (s : State) (x : Nat) : (s.setDraws x).draws = x := rfl

@[simp] theorem State.setDraws_self (s : State) : s.setDraws s.draws = s := rfl
@[simp] theorem State.setDraws_setDraws (s : State) (x y : Nat) : (s.setDraws x).setDraws y = s.setDraws y := rfl

/-- Two states with equal fields are equal. -/
theorem State.eq_of_fields {s t : State} (h1 : s.h = t.h) (h2 : s.buf = t.buf) (h3 : s.total = t.total)
    (h4 : s.status = t.status) (h5 : s.pend = t.pend) (h6 : s.scratch = t.scratch) (h7 : s.agenda = t.agenda)
    (h8 : s.replies = t.replies) (h9 : s.draws = t.draws) : s = t := by
  cases s; cases t; simp_all

end Sys2Proof.Machine
end

