-- ==== Sys2Proof/Laws/Flags.lean ====
section
/-! SUPPORT. What each change of STATUS does to each field. -/

namespace Sys2Proof.Machine

@[simp] theorem Status.raise_busy (st : Status) (c : ErrorCode) : (st.raise c).busy = st.busy := by
  unfold Status.raise; split <;> rfl

@[simp] theorem Status.raise_done (st : Status) (c : ErrorCode) : (st.raise c).done = st.done := by
  unfold Status.raise; split <;> rfl

@[simp] theorem Status.raise_err (st : Status) (c : ErrorCode) : (st.raise c).err = true := by
  unfold Status.raise; split <;> simp_all

/-- The first code since the last clear stays (60_exceptions.md R192). -/
theorem Status.raise_ecode (st : Status) (c : ErrorCode) :
    (st.raise c).ecode = if st.err then st.ecode else some c := by
  unfold Status.raise; split <;> rfl

/-- A second error changes nothing (60_exceptions.md R192, R198). -/
@[simp] theorem Status.raise_raise (st : Status) (c d : ErrorCode) : (st.raise c).raise d = st.raise c := by
  generalize h : st.raise c = st'
  have : st'.err = true := by rw [← h]; exact Status.raise_err st c
  simp [Status.raise, this]

@[simp] theorem Status.clearError_busy (st : Status) : st.clearError.busy = st.busy := rfl
@[simp] theorem Status.clearError_done (st : Status) : st.clearError.done = st.done := rfl
@[simp] theorem Status.clearError_err (st : Status) : st.clearError.err = false := rfl
@[simp] theorem Status.clearError_ecode (st : Status) : st.clearError.ecode = none := rfl

@[simp] theorem Status.initialise_busy (st : Status) : st.initialise.busy = st.busy := rfl
@[simp] theorem Status.initialise_done (st : Status) : st.initialise.done = false := rfl
@[simp] theorem Status.initialise_err (st : Status) : st.initialise.err = false := rfl
@[simp] theorem Status.initialise_ecode (st : Status) : st.initialise.ecode = none := rfl

@[simp] theorem Status.issue_busy (st : Status) : st.issue.busy = true := rfl
@[simp] theorem Status.issue_done (st : Status) : st.issue.done = false := rfl
@[simp] theorem Status.issue_err (st : Status) : st.issue.err = st.err := rfl
@[simp] theorem Status.issue_ecode (st : Status) : st.issue.ecode = st.ecode := rfl

@[simp] theorem Status.completeBlock_busy (st : Status) : st.completeBlock.busy = false := rfl
@[simp] theorem Status.completeBlock_done (st : Status) : st.completeBlock.done = st.done := rfl
@[simp] theorem Status.completeBlock_err (st : Status) : st.completeBlock.err = st.err := rfl
@[simp] theorem Status.completeBlock_ecode (st : Status) : st.completeBlock.ecode = st.ecode := rfl

@[simp] theorem Status.completeFinal_busy (st : Status) : st.completeFinal.busy = false := rfl
@[simp] theorem Status.completeFinal_done (st : Status) : st.completeFinal.done = true := rfl
@[simp] theorem Status.completeFinal_err (st : Status) : st.completeFinal.err = st.err := rfl
@[simp] theorem Status.completeFinal_ecode (st : Status) : st.completeFinal.ecode = st.ecode := rfl

end Sys2Proof.Machine
end

