-- ==== Sys2Proof/Laws/Operands.lean ====
section
/-! SUPPORT. Reading a sequence after one element of it was written, and the register map's ranges. -/

namespace Sys2Proof.Machine

theorem byteAt_of_lt {n : Nat} (b : Vector Byte n) {k : Nat} (h : k < n) : byteAt b k = b[k] := by
  simp [byteAt, h]

theorem wordAt_of_lt {n : Nat} (w : Vector Word n) {k : Nat} (h : k < n) : wordAt w k = w[k] := by
  simp [wordAt, h]

/-- A written byte reads back; every other byte is as before. -/
theorem byteAt_set {n : Nat} (b : Vector Byte n) (k j : Nat) (x : Byte) (h : k < n) :
    byteAt (b.setIfInBounds k x) j = if j = k then x else byteAt b j := by
  by_cases hj : j = k
  · subst hj; simp [byteAt, h]
  · have : k ≠ j := fun e => hj e.symm
    simp [byteAt, hj, this]

/-- A written word reads back; every other word is as before. -/
theorem wordAt_set {n : Nat} (w : Vector Word n) (k j : Nat) (x : Word) (h : k < n) :
    wordAt (w.setIfInBounds k x) j = if j = k then x else wordAt w j := by
  by_cases hj : j = k
  · subst hj; simp [wordAt, h]
  · have : k ≠ j := fun e => hj e.symm
    simp [wordAt, hj, this]

theorem byteAt_ofFn {n : Nat} (f : Fin n → Byte) {k : Nat} (h : k < n) : byteAt (Vector.ofFn f) k = f ⟨k, h⟩ := by
  simp [byteAt, h]

theorem wordAt_ofFn {n : Nat} (f : Fin n → Word) {k : Nat} (h : k < n) : wordAt (Vector.ofFn f) k = f ⟨k, h⟩ := by
  simp [wordAt, h]

@[simp] theorem byteAt_replicate {n : Nat} (k : Nat) : byteAt (Vector.replicate n 0#8) k = 0#8 := by
  by_cases h : k < n <;> simp [byteAt, h]

/-- Two blocks that agree at every index are equal. -/
theorem bytes_ext {n : Nat} {a b : Vector Byte n} (h : ∀ k, k < n → byteAt a k = byteAt b k) : a = b := by
  apply Vector.ext
  intro i hi
  simpa [byteAt_of_lt, hi] using h i hi

/-- The four bytes a word store writes (20_memory.md R55). -/
theorem byteAt_storeWord (b : Vector Byte 64) (k j : Nat) (v : Word) (h : k + 3 < 64) :
    byteAt (storeWord b k v) j = if k ≤ j ∧ j < k + 4 then byteOf v 4 (j - k) else byteAt b j := by
  unfold storeWord
  rw [byteAt_set _ _ _ _ (by omega), byteAt_set _ _ _ _ (by omega), byteAt_set _ _ _ _ (by omega),
    byteAt_set _ _ _ _ (by omega)]
  by_cases h3 : j = k + 3
  · subst h3; simp
  by_cases h2 : j = k + 2
  · subst h2; simp
  by_cases h1 : j = k + 1
  · subst h1; simp
  by_cases h0 : j = k
  · subst h0; simp
  have : ¬(k ≤ j ∧ j < k + 4) := by omega
  simp [h0, h1, h2, h3, this]

/-! The register map (20_memory.md R51) by ranges of offsets. -/

theorem region_buf {off : BitVec 8} (h : off.toNat ≤ 0x3F) : region off = .buf := by
  simp [region, h]

theorem region_h {off : BitVec 8} (h1 : 0x60 ≤ off.toNat) (h2 : off.toNat ≤ 0x7F) : region off = .h := by
  unfold region; simp only []; repeat' split
  all_goals first | rfl | omega

theorem region_digest {off : BitVec 8} (h1 : 0x80 ≤ off.toNat) (h2 : off.toNat ≤ 0x9F) : region off = .digest := by
  unfold region; simp only []; repeat' split
  all_goals first | rfl | omega

/-- Unmapped are 0x54 to 0x5F and 0xA0 to 0xFF (20_memory.md R67). -/
theorem region_unmapped_iff (off : BitVec 8) :
    region off = .unmapped ↔ (0x54 ≤ off.toNat ∧ off.toNat ≤ 0x5F) ∨ 0xA0 ≤ off.toNat := by
  unfold region; simp only []; repeat' split
  all_goals (simp; omega)

/-- The constant of round t is its word of the table (42_compression.md R130). -/
@[simp] theorem wordAt_roundK (t : Fin 64) : wordAt roundK t = roundKWord t := by
  simp [wordAt, roundK]

end Sys2Proof.Machine
end

