-- ==== Sys2Proof/Laws/Ops.lean ====
section
/-! SUPPORT. What the shared operations, the commands, a transaction and a step can do, said once. -/

namespace Sys2Proof.Machine

/-! Recording an error touches STATUS alone (60_exceptions.md R193). -/

@[simp] theorem raiseError_h (c : ErrorCode) (s : State) : (raiseError c s).h = s.h := rfl
@[simp] theorem raiseError_buf (c : ErrorCode) (s : State) : (raiseError c s).buf = s.buf := rfl
@[simp] theorem raiseError_total (c : ErrorCode) (s : State) : (raiseError c s).total = s.total := rfl
@[simp] theorem raiseError_status (c : ErrorCode) (s : State) : (raiseError c s).status = s.status.raise c := rfl
@[simp] theorem raiseError_pend (c : ErrorCode) (s : State) : (raiseError c s).pend = s.pend := rfl
@[simp] theorem raiseError_scratch (c : ErrorCode) (s : State) : (raiseError c s).scratch = s.scratch := rfl
@[simp] theorem raiseError_agenda (c : ErrorCode) (s : State) : (raiseError c s).agenda = s.agenda := rfl
@[simp] theorem raiseError_replies (c : ErrorCode) (s : State) : (raiseError c s).replies = s.replies := rfl
@[simp] theorem raiseError_draws (c : ErrorCode) (s : State) : (raiseError c s).draws = s.draws := rfl

/-- A guarded command: dropped with BUSY_WRITE while busy, its effect otherwise. -/
theorem whenIdle_cases (effect : State → State) (s : State) :
    (s.status.busy = true ∧ whenIdle effect s = .next (raiseError .busyWrite s)) ∨
    (s.status.busy = false ∧ whenIdle effect s = .next (effect s)) := by
  cases hb : s.status.busy <;> simp [whenIdle, hb]

theorem whenIdle_idle {effect : State → State} {s : State} (h : s.status.busy = false) :
    whenIdle effect s = .next (effect s) := by simp [whenIdle, h]

theorem whenIdle_busy {effect : State → State} {s : State} (h : s.status.busy = true) :
    whenIdle effect s = .next (raiseError .busyWrite s) := by simp [whenIdle, h]

/-- FINAL's operand in its legal range (30_encoding.md R83). -/
theorem finalLength_of_le {n : BitVec 7} (h : n.toNat ≤ 64) : finalLength n = some ⟨n.toNat, by omega⟩ := by
  simp [finalLength, h]

theorem finalLength_of_gt {n : BitVec 7} (h : 64 < n.toNat) : finalLength n = none := by
  simp [finalLength, Nat.not_le.mpr h]

/-- The effect each command has on an idle block. -/
def commandEffect : Instr → State → State
  | .nop => id
  | .init => initialise
  | .block => issue .blockOp
  | .final n => issueFinal n
  | .clrerr => clearError

/-- Every command is the guard over its effect. -/
theorem exec_eq (i : Instr) (s : State) : exec i s = whenIdle (commandEffect i) s := by
  cases i <;> rfl

/-- A word that decodes is legal (30_encoding.md R90). -/
theorem legalCmd_of_decode {v : Word} {i : Instr} (h : decode v = .ok i) : legalCmd v = true := by
  unfold decode at h
  split at h
  · cases h
  rename_i hr
  have hr' := not_or.mp hr
  simp only [ne_eq, not_not] at hr'
  have plain : ∀ j, decodePlain j v = .ok i → cmdNbytes v = 0 := by
    intro j hj; unfold decodePlain at hj; split at hj
    · assumption
    · cases hj
  split at h
  · rename_i ho; simp [legalCmd, hr'.1, hr'.2, ho, plain _ h]
  split at h
  · rename_i ho; simp [legalCmd, hr'.1, hr'.2, ho, plain _ h]
  split at h
  · rename_i ho; simp [legalCmd, hr'.1, hr'.2, ho, plain _ h]
  split at h
  · rename_i ho
    split at h
    · rename_i hn; simp [legalCmd, hr'.1, hr'.2, ho, hn]
    · cases h
  split at h
  · rename_i ho; simp [legalCmd, hr'.1, hr'.2, ho, plain _ h]
  · cases h

/-- A transaction that the check lets pass, by its parts (60_exceptions.md R194). -/
theorem check_none_iff (s : State) (off : BitVec 8) (size : Nat) (dir : Dir) (v : Word) :
    check s off size dir v = none ↔
      (size = 1 ∨ size = 4) ∧ (size = 4 → off.toNat % 4 = 0) ∧ region off ≠ .unmapped ∧
      (size = 1 → (region off).byteWide = true) ∧
      (dir = .write → (region off).readOnly = false ∧ s.status.busy = false ∧
        (region off = .cmd → legalCmd v = true)) := by
  unfold check
  repeat' split
  all_goals first
    | (simp only [reduceCtorEq, false_iff]; intro hh; simp_all)
    | (simp_all; try omega)

/-- A write that passes the check finds the block idle (60_exceptions.md R194, line 6). -/
theorem idle_of_check_write {s : State} {off : BitVec 8} {size : Nat} {v : Word}
    (h : check s off size .write v = none) : s.status.busy = false :=
  ((check_none_iff ..).mp h).2.2.2.2 rfl |>.2.1

/-- What a bus read can do (20_memory.md R52). -/
theorem busRead_cases (off : BitVec 8) (size : Nat) (s : State) :
    (∃ c, check s off size .read 0#32 = some c ∧ busRead off size s = (0#32, raiseError c s)) ∨
    (check s off size .read 0#32 = none ∧ s.status.busy = true ∧ (region off).unspecifiedWhileBusy = true ∧
      busRead off size s = (unspecified size s.draws, s.setDraws (s.draws + 1))) ∨
    (check s off size .read 0#32 = none ∧ (s.status.busy = false ∨ (region off).unspecifiedWhileBusy = false) ∧
      busRead off size s = (readReg s off size, s)) := by
  cases hc : check s off size .read 0#32 with
  | some c => exact .inl ⟨c, rfl, by unfold busRead; rw [hc]⟩
  | none =>
    by_cases hb : s.status.busy = true ∧ (region off).unspecifiedWhileBusy = true
    · exact .inr (.inl ⟨rfl, hb.1, hb.2, by unfold busRead; rw [hc]; simp [hb.1, hb.2]⟩)
    · refine .inr (.inr ⟨rfl, ?_, by unfold busRead; rw [hc]; simp [hb]⟩)
      cases h1 : s.status.busy <;> simp_all

/-- What a bus write can do (20_memory.md R52, R59). -/
theorem busWrite_cases (off : BitVec 8) (size : Nat) (v : Word) (s : State) :
    (∃ c, check s off size .write v = some c ∧ busWrite off size v s = .next (raiseError c s)) ∨
    (check s off size .write v = none ∧ s.status.busy = false ∧ region off = .cmd ∧
      busWrite off size v s = performCommand v s) ∨
    (check s off size .write v = none ∧ s.status.busy = false ∧ region off ≠ .cmd ∧
      busWrite off size v s = .next (writeReg s off size v)) := by
  cases hc : check s off size .write v with
  | some c => exact .inl ⟨c, rfl, by simp [busWrite, hc]⟩
  | none =>
    by_cases hr : region off = .cmd
    · exact .inr (.inl ⟨rfl, idle_of_check_write hc, hr, by simp [busWrite, hc, hr]⟩)
    · exact .inr (.inr ⟨rfl, idle_of_check_write hc, hr, by simp [busWrite, hc, hr]⟩)

/-- A command word's effect: the decoded command's on an idle block, or an error recorded. -/
theorem performCommand_cases (v : Word) (s : State) :
    (∃ i, decode v = .ok i ∧ performCommand v s = exec i s) ∨
    ((∃ r, decode v = .error r) ∧ performCommand v s = .next (raiseError .illegalCmd s)) := by
  cases hd : decode v with
  | ok i => exact .inl ⟨i, rfl, by simp [performCommand, hd]⟩
  | error r => exact .inr ⟨⟨r, rfl⟩, by simp [performCommand, hd]⟩

/-- A register write leaves everything but H, BUF and TOTAL (10_state.md R36). -/
theorem writeReg_frame (s : State) (off : BitVec 8) (size : Nat) (v : Word) :
    (writeReg s off size v).status = s.status ∧ (writeReg s off size v).pend = s.pend ∧
    (writeReg s off size v).scratch = s.scratch ∧ (writeReg s off size v).agenda = s.agenda ∧
    (writeReg s off size v).replies = s.replies ∧ (writeReg s off size v).draws = s.draws := by
  unfold writeReg; split <;> simp

/-! The engine's compression in the state. -/

/-- A compression of any number of rounds touches H and the scratch alone, and leaves the scratch dead. Stated for a variable `n`: with the literal 64 the kernel would unroll the rounds. -/
theorem compressRounds_frame (n : Nat) (b : Vector Byte 64) (s : State) :
    compressRounds n b s = (s.setH (compressRounds n b s).h).setScratch Scratch.dead := by
  apply State.eq_of_fields <;> simp [compressRounds, finishScratch]

/-- A compression touches H and the scratch alone, and leaves the scratch dead. -/
theorem compressInState_frame (b : Vector Byte 64) (s : State) :
    compressInState b s = (s.setH (compressInState b s).h).setScratch Scratch.dead :=
  compressRounds_frame 64 b s

@[simp] theorem compressInState_buf (b : Vector Byte 64) (s : State) : (compressInState b s).buf = s.buf := by
  rw [compressInState_frame]; rfl
@[simp] theorem compressInState_total (b : Vector Byte 64) (s : State) : (compressInState b s).total = s.total := by
  rw [compressInState_frame]; rfl
@[simp] theorem compressInState_status (b : Vector Byte 64) (s : State) : (compressInState b s).status = s.status := by
  rw [compressInState_frame]; rfl
@[simp] theorem compressInState_pend (b : Vector Byte 64) (s : State) : (compressInState b s).pend = s.pend := by
  rw [compressInState_frame]; rfl
@[simp] theorem compressInState_scratch (b : Vector Byte 64) (s : State) :
    (compressInState b s).scratch = Scratch.dead := by
  rw [compressInState_frame]; rfl
@[simp] theorem compressInState_agenda (b : Vector Byte 64) (s : State) : (compressInState b s).agenda = s.agenda := by
  rw [compressInState_frame]; rfl
@[simp] theorem compressInState_replies (b : Vector Byte 64) (s : State) :
    (compressInState b s).replies = s.replies := by
  rw [compressInState_frame]; rfl
@[simp] theorem compressInState_draws (b : Vector Byte 64) (s : State) : (compressInState b s).draws = s.draws := by
  rw [compressInState_frame]; rfl

/-- FINAL's one or two compressions touch H and the scratch alone, and leave the scratch dead. -/
theorem compressPadded_frame (n : Nat) (s : State) :
    compressPadded n s = (s.setH (compressPadded n s).h).setScratch Scratch.dead := by
  unfold compressPadded
  split
  · have h0 := compressInState_frame (paddedBlockOf n 0 s) s
    generalize compressInState (paddedBlockOf n 0 s) s = u at *
    have h1 := compressInState_frame (paddedBlockOf n 1 s) u
    generalize compressInState (paddedBlockOf n 1 s) u = v at *
    rw [h1, h0]
    simp only [State.setScratch_h, State.setH_h]
    rfl
  · exact compressInState_frame _ s

/-- BLOCK's completion by its fields (42_compression.md R139). -/
theorem completeBlock_eq (s : State) :
    completeBlock s = retireBlock ((s.setH (compressInState s.buf s).h).setScratch Scratch.dead) := by
  unfold completeBlock
  rw [← compressInState_frame]

/-- FINAL's completion by its fields (43_finalization.md R159). -/
theorem completeFinal_eq (n : Nat) (s : State) :
    completeFinal n s = retireFinal n ((s.setH (compressPadded n s).h).setScratch Scratch.dead) := by
  unfold completeFinal
  rw [← compressPadded_frame]

/-- The engine's turn, by what is pending (00_scope.md R7). -/
theorem engineStep_cases (s : State) :
    (s.pend = .none ∧ engineStep s = s) ∨
    (s.pend = .blockOp ∧
      engineStep s = retireBlock ((s.setH (compressInState s.buf s).h).setScratch Scratch.dead)) ∨
    (∃ n, s.pend = .finalOp n ∧
      engineStep s = retireFinal n ((s.setH (compressPadded n s).h).setScratch Scratch.dead)) := by
  cases hp : s.pend with
  | none => exact .inl ⟨rfl, by simp [engineStep, hp]⟩
  | blockOp => exact .inr (.inl ⟨rfl, by rw [← completeBlock_eq]; simp [engineStep, hp]⟩)
  | finalOp n => exact .inr (.inr ⟨n, rfl, by rw [← completeFinal_eq]; simp [engineStep, hp]⟩)

/-- The engine never touches BUF or the outside (10_state.md R22, R36). -/
theorem engineStep_frame (s : State) :
    (engineStep s).buf = s.buf ∧ (engineStep s).agenda = s.agenda ∧ (engineStep s).replies = s.replies ∧
    (engineStep s).draws = s.draws ∧ (engineStep s).pend = .none ∧
    (engineStep s).status.err = s.status.err ∧ (engineStep s).status.ecode = s.status.ecode := by
  rcases engineStep_cases s with ⟨hp, h⟩ | ⟨hp, h⟩ | ⟨n, hp, h⟩ <;> rw [h]
  · simp [hp]
  · simp [retireBlock]
  · simp [retireFinal]

/-- What one step is, by the head of the agenda. -/
theorem step_nil {s : State} (h : s.agenda = []) : step s = .next (engineStep s) := by
  simp [step, h, quietTurn]

theorem step_cons {s : State} {e : Event} {rest : List Event} (h : s.agenda = e :: rest) :
    step s = takeEvent e (s.setAgenda rest) := by
  simp [step, h]

/-- A run of one step and more, by what the step answers. -/
theorem run_succ {s t : State} (k : Nat) (h : step s = .next t) :
    Host.Core.run Sys2Proof.core (k + 1) s = Host.Core.run Sys2Proof.core k t := by
  have h' : Sys2Proof.core.step s = .next t := h
  simp [Host.Core.run, h']

/-- A run of m steps that answers a state, and n more from there. -/
theorem run_add {s t : State} (m n : Nat) (h : Host.Core.run Sys2Proof.core m s = .next t) :
    Host.Core.run Sys2Proof.core (m + n) s = Host.Core.run Sys2Proof.core n t := by
  induction m generalizing s with
  | zero => simp only [Host.Core.run] at h; cases h; simp
  | succ m ih =>
    rw [Nat.add_right_comm]
    simp only [Host.Core.run] at h ⊢
    cases hs : Sys2Proof.core.step s with
    | next u => rw [hs] at h; exact ih h
    | fault r => rw [hs] at h; cases h
    | refused r => rw [hs] at h; cases h

/-- A run of no step. -/
theorem run_zero (s : State) : Host.Core.run Sys2Proof.core 0 s = .next s := rfl

end Sys2Proof.Machine
end

