-- ==== Sys2Proof/Laws/PerInstr.lean ====
section
/-! SUPPORT. Statements made of every command, one lemma per constructor: a well-formed command's word is legal (30_encoding.md R82, R84). -/

namespace Sys2Proof.Laws.EncodeLegal

/-- The word of a well-formed command passes LegalCmd (30_encoding.md R84). -/
def Statement (i : Instr) : Prop := i.wellFormed = true → legalCmd (encode i) = true

theorem nop : Statement .nop := fun _ => by decide
theorem init : Statement .init := fun _ => by decide
theorem block : Statement .block := fun _ => by decide
theorem clrerr : Statement .clrerr := fun _ => by decide

/-- All 128 values of NBYTES, checked one by one. -/
theorem final (n : BitVec 7) : Statement (.final n) := by
  unfold Statement
  revert n
  decide

end Sys2Proof.Laws.EncodeLegal
end

