-- ==== Sys2Proof/Tests/Slice0.lean ====
section
/-! SUPPORT. Tests: values from spec/95_test_vectors.md (the id stands in each docstring), and a witness for the hypotheses of every statement that has some. -/

namespace Sys2Proof.Tests

open Sys2Proof Sys2Proof.Machine

/-! ### Small states -/

/-- What a step or a transaction answers, when it answers a state. -/
def nextOf : Host.Outcome State Fault Refusal → Option State
  | .next t => some t
  | .fault _ => none
  | .refused _ => none

/-- STATUS after one transaction. -/
def statusAfter (t : Txn) (s : State) : Option Word := (nextOf (transact t s)).map (·.status.word)

/-- What one read returns. -/
def replyOf (off : BitVec 8) (size : Nat) (s : State) : Word := (busRead off size s).1

/-- STATUS after the step that runs a command word from `s`. -/
def statusOfWord (w : Nat) (s : State) : Option Word := (nextOf (step (s.withFetchWord 32 w))).map (·.status.word)

/-- An idle block, right after reset. -/
def idleBlock : State := State.reset

/-- A block with an operation pending. -/
def busyWith (p : Pend) : State := issue p State.reset

/-- An idle block after a FINAL: STATUS = 0x2. -/
def doneBlock : State := State.reset.setStatus ⟨false, true, false, none⟩

/-- An idle block that has refused an illegal command: STATUS = 0x14. -/
def errorBlock : State := raiseError .illegalCmd State.reset

/-- A busy block that has refused a write: STATUS = 0x25. -/
def busyErrorBlock : State := raiseError .busyWrite (busyWith .blockOp)

/-- A block whose every byte of BUF is `b`. -/
def filled (b : Byte) : State := State.reset.setBuf (Vector.replicate 64 b)

/-- BUF holding "abc" and zeros. -/
def abcBlock : State :=
  State.reset.setBuf ((((Vector.replicate 64 0#8).setIfInBounds 0 0x61).setIfInBounds 1 0x62).setIfInBounds 2 0x63)

/-- H after the engine's turn, a hash's eight words. -/
def hAfterEngine (p : Pend) (s : State) : List Word := (engineStep (s.setPend p)).h.toList

/-! ### Well-formed terms -/

/-- FINAL is well formed up to 64 and no further (30_encoding.md R84). -/
theorem test_wellformed_refuses_final_65 :
    (Instr.final 65).wellFormed = false ∧ (Instr.final 127).wellFormed = false ∧ (Instr.final 64).wellFormed = true := by decide

/-! ### Decoding, words written out from 30_encoding.md R82; bits 31:15 RSV1, 14:8 NBYTES, 7:4 RSV0, 3:0 OP -/

theorem test_decode_nop : decode 0b00000000000000000_0000000_0000_0000 = .ok .nop := by decide
theorem test_decode_init : decode 0b00000000000000000_0000000_0000_0001 = .ok .init := by decide
theorem test_decode_block : decode 0b00000000000000000_0000000_0000_0010 = .ok .block := by decide
theorem test_decode_final_3 : decode 0b00000000000000000_0000011_0000_0011 = .ok (.final 3) := by decide
theorem test_decode_final_64 : decode 0b00000000000000000_1000000_0000_0011 = .ok (.final 64) := by decide
theorem test_decode_clrerr : decode 0b00000000000000000_0000000_0000_0100 = .ok .clrerr := by decide

/-- The refusals by name (30_encoding.md R85): FINAL 65, OP 5 and 15, RSV0, RSV1, NBYTES on BLOCK. -/
theorem test_decode_refusals :
    decode 0b00000000000000000_1000001_0000_0011 = .error .nbytesTooBig ∧
    decode 0b00000000000000000_0000000_0000_0101 = .error .reservedOp ∧
    decode 0b00000000000000000_0000000_0000_1111 = .error .reservedOp ∧
    decode 0b00000000000000000_0000000_0001_0000 = .error .reservedBits ∧
    decode 0b00000000000000001_0000000_0000_0000 = .error .reservedBits ∧
    decode 0b00000000000000000_0000001_0000_0010 = .error .nbytesSet := by decide

/-- V-FIN-2: FINAL's words. -/
theorem test_encode_final :
    encode (.final 0) = 0x00000003 ∧ encode (.final 3) = 0x00000303 ∧ encode (.final 56) = 0x00003803 ∧
    encode (.final 64) = 0x00004003 := by decide

theorem test_decodeTableWord :
    decodeTableWord 32 0x00000303 = some (.final 3) ∧ decodeTableWord 32 0x00004103 = none ∧
    decodeTableWord 32 0x00000004 = some .clrerr := by decide

/-! ### The commands, run by one step (V-CTL-1) -/

/-- NOP leaves STATUS = 0x2 (V-CTL-1). -/
theorem test_nop_keeps_done : statusOfWord 0x00000000 doneBlock = some 0x2 := by decide

/-- INIT clears STATUS = 0x14 (V-CTL-1). -/
theorem test_init_clears_status : statusOfWord 0x00000001 errorBlock = some 0x0 := by decide

/-- INIT loads the IV and keeps BUF (V-CTL-1). -/
theorem test_init_loads_iv :
    ((nextOf (exec .init ((filled 0x11).setH (Vector.replicate 8 0)))).map fun t => (wordAt t.h 0, wordAt t.h 7, byteAt t.buf 63))
      = some (0x6a09e667, 0x5be0cd19, 0x11) := by decide

/-- CLRERR clears STATUS = 0x14 (V-CTL-1). -/
theorem test_clrerr_clears_error : statusOfWord 0x00000004 errorBlock = some 0x0 := by decide

/-- CLRERR keeps DONE (V-CTL-1). -/
theorem test_clrerr_keeps_done : statusOfWord 0x00000004 doneBlock = some 0x2 := by decide

/-- BLOCK clears DONE and sets BUSY; BLOCKOP is pending (V-CTL-1). -/
theorem test_block_issue :
    statusOfWord 0x00000002 doneBlock = some 0x1 ∧ (nextOf (exec .block doneBlock)).map (·.pend) = some .blockOp := by decide

/-- FINAL 3 sets BUSY; FINALOP(3) is pending (V-CTL-1). -/
theorem test_final_issue :
    statusOfWord 0x00000303 idleBlock = some 0x1 ∧ (nextOf (exec (.final 3) idleBlock)).map (·.pend) = some (.finalOp 3) := by decide

/-! ### Errors -/

/-- V-ERR-1, the reads. -/
theorem test_read_errors :
    statusAfter (.read 0x44 1) idleBlock = some 0x44 ∧ statusAfter (.read 0x46 4) idleBlock = some 0x44 ∧
    statusAfter (.read 0x44 2) idleBlock = some 0x44 ∧ statusAfter (.read 0x54 4) idleBlock = some 0x34 ∧
    statusAfter (.read 0xa0 1) idleBlock = some 0x34 ∧ statusAfter (.read 0x61 1) idleBlock = some 0x44 ∧
    statusAfter (.read 0x40 4) idleBlock = some 0x0 := by decide

/-- V-ERR-1, the writes. -/
theorem test_write_errors :
    statusAfter (.write 0x44 4 0) idleBlock = some 0x54 ∧ statusAfter (.write 0x83 1 0) idleBlock = some 0x54 ∧
    statusAfter (.write 0x40 1 1) idleBlock = some 0x44 ∧ statusAfter (.write 0x40 4 0x5) idleBlock = some 0x14 ∧
    statusAfter (.write 0x40 4 0x80000002) idleBlock = some 0x14 ∧ statusAfter (.write 0x40 4 0x4103) idleBlock = some 0x14 ∧
    statusAfter (.write 0x40 4 0x4003) idleBlock = some 0x1 ∧ statusAfter (.write 0x58 4 0) idleBlock = some 0x34 ∧
    statusAfter (.write 0x02 4 0) idleBlock = some 0x44 := by decide

/-- V-ERR-2: the priorities while busy. -/
theorem test_busy_errors :
    statusAfter (.write 0x00 4 1) (busyWith .blockOp) = some 0x25 ∧
    statusAfter (.write 0x40 4 0x1) (busyWith .blockOp) = some 0x25 ∧
    statusAfter (.write 0x40 4 0x5) (busyWith .blockOp) = some 0x25 ∧
    statusAfter (.write 0x44 4 0) (busyWith .blockOp) = some 0x55 ∧
    statusAfter (.write 0x41 4 0) (busyWith .blockOp) = some 0x45 ∧
    statusAfter (.read 0x60 4) (busyWith .blockOp) = some 0x1 := by decide

/-- V-ERR-3: the first error is kept. -/
theorem test_first_error_kept : statusAfter (.read 0x54 4) errorBlock = some 0x14 := by decide

/-! ### Mixing and byte order -/

/-- V-MIX-1, rows 12345678 and 80000000. -/
theorem test_sigmas :
    smallSigma0 0x12345678 = 0xe7fce6ee ∧ smallSigma1 0x12345678 = 0xa1f78649 ∧
    bigSigma0 0x12345678 = 0x66146474 ∧ bigSigma1 0x12345678 = 0x3561abda ∧
    smallSigma0 0x80000000 = 0x11002000 ∧ smallSigma1 0x80000000 = 0x00205000 := by decide

/-- V-MIX-2: the first and the last amount. -/
theorem test_rotr : rotr 0x12345678 1 = 0x091a2b3c ∧ rotr 0x12345678 31 = 0x2468acf0 := by decide

/-- V-MIX-4: the IV's words. -/
theorem test_ch_maj :
    ch 0x510e527f 0x9b05688c 0x1f83d9ab = 0x1f85c98c ∧ maj 0x510e527f 0x9b05688c 0x1f83d9ab = 0x1b0758af ∧
    ch 0x6a09e667 0xbb67ae85 0x3c6ef372 = 0x3e67b715 ∧ maj 0x6a09e667 0xbb67ae85 0x3c6ef372 = 0x3a6fe667 := by decide

/-- V-BO-1: BE64 and Ser32. -/
theorem test_serialize :
    (be64 0x0000000800000008#64).toList = [0, 0, 0, 8, 0, 0, 0, 8] ∧ (ser32 0x6a09e667).toList = [0x6a, 0x09, 0xe6, 0x67] := by decide

/-- 41_byte_order.md R125: two lowercase digits a byte, the high nibble first. -/
theorem test_hex : hex [0xba#8, 0x09#8] = ['b', 'a', '0', '9'] := by decide

/-- V-BO-2: one word of BUF and its bytes; DIGEST bytes of the IV. -/
theorem test_widths :
    ((nextOf (transact (.write 0x00 4 0x61626380) idleBlock)).map fun t =>
      [replyOf 0x00 4 t, replyOf 0x00 1 t, replyOf 0x03 1 t]) = some [0x61626380, 0x61, 0x80] ∧
    [replyOf 0x80 4 idleBlock, replyOf 0x80 1 idleBlock, replyOf 0x81 1 idleBlock, replyOf 0x9f 1 idleBlock]
      = [0x6a09e667, 0x6a, 0x09, 0x19] := by decide

/-! ### Compression and finalization, by the engine's turn -/

/-- 42_compression.md R130's table: the ends of its first row, the start of its second, the end of its last. -/
theorem test_roundK :
    [wordAt roundK 0, wordAt roundK 7, wordAt roundK 8, wordAt roundK 63] = [0x428a2f98, 0xab1c5ed5, 0xd807aa98, 0xc67178f2] := by decide

/-- V-CMP-4, first row: zeros into zeros. -/
theorem test_compress_zero :
    (compress (Vector.replicate 8 0) (Vector.replicate 64 0)).toList =
      [0x7ca51614, 0x425c3ba8, 0xce54dd2f, 0xc2020ae7, 0xb6e574d1, 0x98136d0f, 0xae7e26cc, 0xbf0be7a6] := by decide +kernel

/-- V-CMP-4, last row: BLOCK on a×64 from the IV. -/
theorem test_block_completion :
    hAfterEngine .blockOp (filled 0x61) =
      [0xdf5bb81c, 0xe81e0626, 0xfb45a894, 0x4fd40f31, 0xb25e6816, 0xd6d499c1, 0xab904929, 0x00635e66] := by decide +kernel

/-- S2 and P1: FINAL 3 on "abc". -/
theorem test_final_abc :
    hAfterEngine (.finalOp 3) abcBlock =
      [0xba7816bf, 0x8f01cfea, 0x414140de, 0x5dae2223, 0xb00361a3, 0x96177a9c, 0xb410ff61, 0xf20015ad] := by decide +kernel

/-- P4: FINAL 56 on 56 letters a, the bytes above them stale: two compressions. -/
theorem test_final_56 :
    hAfterEngine (.finalOp 56) (filled 0x61) =
      [0xb35439a4, 0xac6f0948, 0xb6d6f9e3, 0xc6af0f5f, 0x590ce20f, 0x1bde7090, 0xef797068, 0x6ec6738a] := by decide +kernel

/-- V-FIN-1, n = 63: the marker at the last byte of P0, the length 0x1f8 at the end of P1. -/
theorem test_padding_63 :
    [byteAt (padBlock (Vector.replicate 64 0x11) 63 (bitLength 63) 0) 62, byteAt (padBlock (Vector.replicate 64 0x11) 63 (bitLength 63) 0) 63,
     byteAt (padBlock (Vector.replicate 64 0x11) 63 (bitLength 63) 1) 55, byteAt (padBlock (Vector.replicate 64 0x11) 63 (bitLength 63) 1) 62,
     byteAt (padBlock (Vector.replicate 64 0x11) 63 (bitLength 63) 1) 63] = [0x11, 0x80, 0x00, 0x01, 0xf8] := by decide

/-- 42_compression.md R139 and V-FIN-6: BLOCK's TOTAL wraps. -/
theorem test_total_wraps : (retireBlock (State.reset.setTotal 0xffffffffffffffc0)).total = 0 := by decide

/-- R50, R67: the window is 256 bytes from its base. -/
theorem test_windowOffset : windowOffset 0x1000 0x1044 = some 0x44 ∧ windowOffset 0x1000 0x1100 = none := by decide

/-- R89: `ldbuf 0, "hello\n"` is one wr32 and two wr8 (P2). -/
theorem test_ldbuf :
    ldbuf 0 [0x68, 0x65, 0x6c, 0x6c, 0x6f, 0x0a] = [wr32 0 0x68656c6c, wr8 4 0x6f, wr8 5 0x0a] := by decide

/-- The reference on "" and "abc" (S1, S2). -/
theorem test_reference_empty : (sha256 []).toList =
    [0xe3b0c442, 0x98fc1c14, 0x9afbf4c8, 0x996fb924, 0x27ae41e4, 0x649b934c, 0xa495991b, 0x7852b855] := by decide +kernel

/-! ### Witnesses: for each statement with hypotheses, inputs that meet them all -/

/-- DecodeOfEncode: both ends of NBYTES. -/
theorem test_witness_DecodeOfEncode : (Instr.final 0).wellFormed = true ∧ (Instr.final 64).wellFormed = true ∧ Instr.nop.wellFormed = true := by decide

/-- EncodeOfDecode and StepRunsTheDecodedCommand: a word that decodes, on the first event of the agenda. -/
theorem test_witness_StepRunsTheDecodedCommand :
    (State.reset.setAgenda [commandEvent 0x4003]).agenda = .bus (.write 0x40#8 4 0x4003) :: [] ∧ decode 0x4003 = .ok (.final 64) := by decide

/-- DecodeIsTotalByOp: an illegal word, and a legal one of each OP. -/
theorem test_witness_DecodeIsTotalByOp :
    legalCmd 0x4103 = false ∧ (legalCmd 0x0 = true ∧ cmdOp 0x0 = 0x0) ∧ (legalCmd 0x1 = true ∧ cmdOp 0x1 = 0x1) ∧
    (legalCmd 0x2 = true ∧ cmdOp 0x2 = 0x2) ∧ (legalCmd 0x4003 = true ∧ cmdOp 0x4003 = 0x3) ∧
    (legalCmd 0x4 = true ∧ cmdOp 0x4 = 0x4) := by decide

/-- IllegalCommandIsRefused: each of R85's cases at its boundary, on an idle block. -/
theorem test_witness_IllegalCommandIsRefused :
    legalCmd 0x5 = false ∧ legalCmd 0xF = false ∧ legalCmd 0x10 = false ∧ legalCmd 0x8000 = false ∧
    legalCmd 0x102 = false ∧ legalCmd 0x4103 = false ∧ legalCmd 0x7F03 = false ∧
    idleBlock.status.busy = false := by decide

/-- StepTakesTheFirstEvent: an agenda for each clause. -/
theorem test_witness_StepTakesTheFirstEvent :
    (idleBlock.setAgenda [rd32 0x44]).agenda = [.bus (.read 0x44#8 4)] ∧ (idleBlock.setAgenda [.engine]).agenda = [.engine] ∧
    (idleBlock.setAgenda [.reset]).agenda = [.reset] ∧ idleBlock.agenda = [] := by decide

/-- PlacedWordRunsAsTheNextStep. -/
theorem test_witness_PlacedWordRunsAsTheNextStep : decodeTableWord 32 0x303 = some (.final 3) := by decide

/-- ResetDiscardsThePendingOperation: a reset while an operation is pending. -/
theorem test_witness_ResetDiscardsThePendingOperation :
    ((busyWith (.finalOp 64)).setAgenda [.reset]).agenda = .reset :: [] ∧ (busyWith (.finalOp 64)).pend = .finalOp 64 := by decide

/-- StepKeepsConsistent: a consistent state with an operation pending, and its next. -/
theorem test_witness_StepKeepsConsistent :
    Consistent (busyWith .blockOp) ∧ step (busyWith .blockOp) = .next (engineStep (busyWith .blockOp)) :=
  ⟨by decide, step_nil rfl⟩

/-- EveryProgramEnds: a consistent state with events to come. -/
theorem test_witness_EveryProgramEnds :
    Consistent (busyErrorBlock.setAgenda [rd32 0x44, .engine]) := by decide

/-- NopChangesNothing, InitStartsANewDigest, ClrerrClearsTheErrorRecord, BlockIssueStartsTheOperation, FinalIssueStartsTheOperation: an idle block and a busy one, with and without a recorded error. -/
theorem test_witness_commands_idle_and_busy :
    idleBlock.status.busy = false ∧ errorBlock.status.busy = false ∧ errorBlock.status.err = true ∧
    (busyWith .blockOp).status.busy = true ∧ busyErrorBlock.status.busy = true ∧ busyErrorBlock.status.err = true := by decide

/-- ClrerrClearsTheErrorRecord, the clause without an error. -/
theorem test_witness_ClrerrClearsTheErrorRecord :
    doneBlock.status.busy = false ∧ doneBlock.status.err = false ∧ doneBlock.status.ecode = none := by decide

/-- BlockIssueStartsTheOperation, the illegal words of OP 2. -/
theorem test_witness_BlockIssueStartsTheOperation :
    cmdOp 0x102 = 0x2 ∧ (0x102 : Word) ≠ 0x2 ∧ cmdOp 0x12 = 0x2 ∧ cmdOp 0x8002 = 0x2 ∧ idleBlock.status.busy = false := by decide

/-- FinalIssueStartsTheOperation: n = 0, 64, 65, 127, and the illegal words of OP 3. -/
theorem test_witness_FinalIssueStartsTheOperation :
    (0 : BitVec 7).toNat ≤ 64 ∧ (64 : BitVec 7).toNat ≤ 64 ∧ 64 < (65 : BitVec 7).toNat ∧ 64 < (127 : BitVec 7).toNat ∧
    (cmdOp 0x4103 = 0x3 ∧ 64 < (cmdNbytes 0x4103).toNat) ∧ (cmdOp 0x13 = 0x3 ∧ cmdRsv0 0x13 ≠ 0) ∧
    (cmdOp 0x8003 = 0x3 ∧ cmdRsv1 0x8003 ≠ 0) ∧ idleBlock.status.busy = false := by decide

/-- CommandsWriteOnlyWhatRule36Allows: every command on an idle block, one on a busy block, and a FINAL above 64. -/
theorem test_witness_CommandsWriteOnlyWhatRule36Allows :
    (idleBlock.status.busy = false ∧ (Instr.final 64).wellFormed = true ∧ exec (.final 64) idleBlock = .next (busyWith (.finalOp 64))) ∧
    (Instr.block.wellFormed = true ∧ exec .block idleBlock = .next (busyWith .blockOp)) ∧
    (doneBlock.status.busy = false ∧ exec .nop doneBlock = .next doneBlock) ∧
    (exec .init doneBlock = .next State.reset ∧ exec .clrerr errorBlock = .next State.reset) ∧
    ((Instr.final 65).wellFormed = false ∧ exec (.final 65) idleBlock = .next errorBlock) ∧
    (busyErrorBlock.status.busy = true ∧ exec .block busyErrorBlock = .next (raiseError .busyWrite busyErrorBlock)) :=
  ⟨⟨rfl, rfl, rfl⟩, ⟨rfl, rfl⟩, ⟨rfl, rfl⟩, ⟨rfl, rfl⟩, ⟨rfl, rfl⟩, ⟨rfl, rfl⟩⟩

/-- EngineCompletesBlock, EngineCompletesFinal at n = 0 and 64, IdleEngineChangesNothing. -/
theorem test_witness_EngineCompletes :
    (((busyWith .blockOp).setAgenda [.engine]).agenda = .engine :: [] ∧ ((busyWith .blockOp).setAgenda [.engine]).pend = .blockOp) ∧
    (((busyWith (.finalOp 0)).setAgenda [.engine]).agenda = .engine :: [] ∧ ((busyWith (.finalOp 0)).setAgenda [.engine]).pend = .finalOp 0) ∧
    ((busyWith (.finalOp 64)).setAgenda [.engine]).pend = .finalOp 64 ∧
    ((idleBlock.setAgenda [.engine]).pend = .none ∧ (idleBlock.setAgenda [.engine]).agenda = .engine :: []) ∧ idleBlock.agenda = [] := by decide

/-- HostCannotDisturbThePendingOperation: two transactions before the engine's turn. -/
theorem test_witness_HostCannotDisturbThePendingOperation :
    let s := (busyWith .blockOp).setAgenda [rd32 0x44, wr32 0x00 1, .engine]
    s.status.busy = true ∧ s.agenda = [Txn.read 0x44#8 4, Txn.write 0x00#8 4 1].map .bus ++ [.engine] := by decide

/-- CyclesFollowTheCompressions: each pending operation, the ends of both ranges. -/
theorem test_witness_CyclesFollowTheCompressions :
    idleBlock.pend = .none ∧ (busyWith .blockOp).pend = .blockOp ∧ (busyWith (.finalOp 56)).pend = .finalOp 56 ∧
    (0 : Fin 65).val ≤ 55 ∧ (55 : Fin 65).val ≤ 55 ∧ 56 ≤ (56 : Fin 65).val ∧ 56 ≤ (64 : Fin 65).val := by decide

/-- CheckReportsTheFirstCause: each verdict is reached. -/
theorem test_witness_CheckReportsTheFirstCause :
    check idleBlock 0x3e 4 .read 0 = some .badSize ∧ check idleBlock 0x43 1 .read 0 = some .badSize ∧
    check idleBlock 0x54 4 .write 0 = some .badOffset ∧ check idleBlock 0x5f 1 .read 0 = some .badOffset ∧
    check idleBlock 0xa0 1 .read 0 = some .badOffset ∧ check idleBlock 0x9f 1 .write 0 = some .roWrite ∧
    check (busyWith .blockOp) 0x3c 4 .write 0 = some .busyWrite ∧ check idleBlock 0x40 4 .write 5 = some .illegalCmd ∧
    check idleBlock 0x7c 4 .write 0 = none ∧ check (busyWith .blockOp) 0x9c 4 .read 0 = none := by decide

/-- RefusedTransactionOnlyRecordsItsError: a refused read and a refused write. -/
theorem test_witness_RefusedTransactionOnlyRecordsItsError :
    check idleBlock 0x54 4 .read 0#32 = some .badOffset ∧ check idleBlock 0x44 4 .write 0 = some .roWrite := by decide

/-- FirstErrorIsKept: a block without an error, one with, and a step from it. -/
theorem test_witness_FirstErrorIsKept :
    idleBlock.status.err = false ∧ errorBlock.status.err = true ∧ step errorBlock = .next errorBlock :=
  ⟨rfl, rfl, step_nil rfl⟩

/-- BufByteAccess (k 0 and 63), BufWordAccess (j 0 and 15), HWordAccess and DigestReads (i 0 and 7), DigestReads and WordViewsAgreeWithByteViews (j, m 0 and 3), TotalHalvesAccess: an idle block, the ends of every index range. -/
theorem test_witness_accesses :
    idleBlock.status.busy = false ∧ (0 < 64 ∧ 63 < 64) ∧ (0 < 16 ∧ 15 < 16) ∧ (0 < 8 ∧ 7 < 8) ∧ (0 < 4 ∧ 3 < 4) := by decide

/-- BusyDataReadIsAFreeDraw: both sizes, every region, busy. -/
theorem test_witness_BusyDataReadIsAFreeDraw :
    (busyWith .blockOp).status.busy = true ∧
    (check (busyWith .blockOp) 0x3f 1 .read 0#32 = none ∧ region 0x3f = .buf) ∧
    (check (busyWith .blockOp) 0x48 4 .read 0#32 = none ∧ region 0x48 = .totalLo) ∧
    (check (busyWith .blockOp) 0x4c 4 .read 0#32 = none ∧ region 0x4c = .totalHi) ∧
    (check (busyWith .blockOp) 0x60 4 .read 0#32 = none ∧ region 0x60 = .h) ∧
    (check (busyWith .blockOp) 0x9f 1 .read 0#32 = none ∧ region 0x9f = .digest) ∧
    (check (busyWith .blockOp) 0x40 4 .read 0#32 = none ∧ region 0x40 = .cmd) ∧
    (check (busyWith .blockOp) 0x44 4 .read 0#32 = none ∧ region 0x44 = .status) ∧
    (check (busyWith .blockOp) 0x50 4 .read 0#32 = none ∧ region 0x50 = .id) := by decide

/-- SuccessfulReadsHaveNoSideEffect: an idle and a busy read. -/
theorem test_witness_SuccessfulReadsHaveNoSideEffect :
    check idleBlock 0x80 1 .read 0#32 = none ∧ check (busyWith .blockOp) 0x00 4 .read 0#32 = none := by decide

/-- RotrMovesBits, SmallSigmasBitwiseAndLinear, BigSigmasBitwise, ChChoosesAndMajVotes: the ends of the amounts and of the bits. -/
theorem test_witness_bits : (1 ≤ 1 ∧ 1 ≤ 31) ∧ (1 ≤ 31 ∧ 31 ≤ 31) ∧ 0 < 32 ∧ 31 < 32 := by decide

/-- BigEndianConversionsAreInverse and LengthAndDigestSerialization: the last word of a block, the last byte. -/
theorem test_witness_serialization : 60 + 3 < 64 ∧ 0 + 3 < 4 ∧ 7 < 8 ∧ 3 < 4 := by decide

/-- ScheduleRecurrence and SlidingWindowComputesTheSchedule: the ends of the ranges. -/
theorem test_witness_schedule :
    (0 < 16 ∧ 15 < 16) ∧ (16 ≤ 16 ∧ 16 < 64) ∧ (16 ≤ 63 ∧ 63 < 64) ∧ (0 ≤ 48 ∧ 48 ≤ 48) := by decide

/-- BitLengthIsTotalTimesEight, OneBlockPadding, TwoBlockPadding: the ends of n. -/
theorem test_witness_lengths : (0 ≤ 64 ∧ 64 ≤ 64) ∧ (0 ≤ 55 ∧ 55 ≤ 55) ∧ (56 ≤ 56 ∧ 56 ≤ 63) ∧ (56 ≤ 63 ∧ 63 ≤ 63) := by decide

/-- FinalIgnoresTheTailOfBuf: "abc" under two different tails (V-FIN-5). -/
theorem test_witness_FinalIgnoresTheTailOfBuf :
    (abcBlock.setPend (.finalOp 3)).pend = .finalOp 3 ∧
    (∀ k, k < (3 : Fin 65).val →
      byteAt ((((Vector.replicate 64 0xee#8).setIfInBounds 0 0x61).setIfInBounds 1 0x62).setIfInBounds 2 0x63) k
        = byteAt (abcBlock.setPend (.finalOp 3)).buf k) := by decide

/-- Final64IsBlockThenFinal0 and HostProtocolComputesSha256: idle blocks, the reset one and one with garbage and an error. -/
theorem test_witness_idle :
    Idle idleBlock ∧ Idle (errorBlock.setH (Vector.replicate 8 0x11)) := by decide

end Sys2Proof.Tests
end

section
/-! SUPPORT. The engine with nothing pending (00_scope.md R7). -/

namespace Sys2Proof.Machine

/-- With nothing pending the engine's turn leaves the whole state alone (00_scope.md R7). -/
theorem engineStep_of_pend_none {s : State} (hp : s.pend = .none) : engineStep s = s := by
  rcases engineStep_cases s with ⟨_, h⟩ | ⟨hblock, _⟩ | ⟨n, hfinal, _⟩
  · exact h
  · simp [hp] at hblock
  · simp [hp] at hfinal

/-- Settles O24: on both paths to the engine, its own event and the empty agenda, it has nothing to complete. -/
theorem idleEngineChangesNothing : Obligations.IdleEngineChangesNothing := by
  intro s hp
  constructor
  · intro rest hagenda
    have hp' : (s.setAgenda rest).pend = .none := by simp [hp]
    rw [step_cons hagenda, takeEvent, engineStep_of_pend_none hp']
  · intro hagenda
    rw [step_nil hagenda, engineStep_of_pend_none hp]

end Sys2Proof.Machine
end

section
/-! SUPPORT. What a command and a transaction can answer, said once for every proof about a step. -/

namespace Sys2Proof.Machine

/-- What a command answers: the dropped command's error on a busy block, its effect on an idle one. -/
theorem exec_next_cases {i : Instr} {s t : State} (h : exec i s = .next t) :
    (s.status.busy = true ∧ t = raiseError .busyWrite s) ∨ (s.status.busy = false ∧ t = commandEffect i s) := by
  rw [exec_eq] at h
  rcases whenIdle_cases (commandEffect i) s with ⟨hbusy, hexec⟩ | ⟨hidle, hexec⟩ <;> rw [hexec] at h <;> cases h
  · exact .inl ⟨hbusy, rfl⟩
  · exact .inr ⟨hidle, rfl⟩

/-- The state after a read: unchanged, one free value drawn, or an error recorded. -/
theorem busRead_state_cases (off : BitVec 8) (size : Nat) (s : State) :
    (busRead off size s).2 = s ∨ (busRead off size s).2 = s.setDraws (s.draws + 1) ∨
    ∃ c, (busRead off size s).2 = raiseError c s := by
  rcases busRead_cases off size s with ⟨c, _, hread⟩ | ⟨_, _, _, hread⟩ | ⟨_, _, hread⟩ <;> rw [hread]
  · exact .inr (.inr ⟨c, rfl⟩)
  · exact .inr (.inl rfl)
  · exact .inl rfl

/-- A write records an error, or it finds the block idle and performs a command or stores into a register. -/
theorem busWrite_outcome_cases (off : BitVec 8) (size : Nat) (v : Word) (s : State) :
    (∃ c, busWrite off size v s = .next (raiseError c s)) ∨
    (s.status.busy = false ∧
      ((∃ i, busWrite off size v s = exec i s) ∨ busWrite off size v s = .next (writeReg s off size v))) := by
  rcases busWrite_cases off size v s with ⟨c, _, hwrite⟩ | ⟨_, hidle, _, hwrite⟩ | ⟨_, hidle, _, hwrite⟩
  · exact .inl ⟨c, hwrite⟩
  · rcases performCommand_cases v s with ⟨i, _, hperform⟩ | ⟨_, hperform⟩
    · exact .inr ⟨hidle, .inl ⟨i, hwrite.trans hperform⟩⟩
    · exact .inl ⟨.illegalCmd, hwrite.trans hperform⟩
  · exact .inr ⟨hidle, .inr hwrite⟩

end Sys2Proof.Machine
end

section
/-! SUPPORT. The invariant `Consistent`: it holds at reset, and each operation of the machine keeps it. -/

namespace Sys2Proof.Machine

/-- The invariant reads STATUS, PEND and the scratch alone. -/
theorem Consistent.congr {s t : State} (hs : Consistent s) (hstatus : t.status = s.status)
    (hpend : t.pend = s.pend) (hscratch : t.scratch = s.scratch) : Consistent t := by
  rw [Consistent, hstatus, hpend, hscratch]
  exact hs

/-- An error recorded sets ERR and leaves a code: the first one stays, and it is there because ERR was 1. -/
theorem Consistent.raiseError {s : State} (c : ErrorCode) (hs : Consistent s) : Consistent (raiseError c s) := by
  obtain ⟨hbusy, herr, hdone, hscratch⟩ := hs
  refine ⟨by simpa using hbusy, ?_, by simpa using hdone, hscratch⟩
  have hcode : (s.status.raise c).ecode ≠ none := by
    rw [Status.raise_ecode]
    split
    next hset => exact herr.mp hset
    next => simp
  simp [hcode]

theorem Consistent.clearError {s : State} (hs : Consistent s) : Consistent (clearError s) := by
  obtain ⟨hbusy, _, hdone, hscratch⟩ := hs
  exact ⟨hbusy, by simp [Machine.clearError], hdone, hscratch⟩

theorem Consistent.initialise {s : State} (hs : Consistent s) : Consistent (initialise s) := by
  obtain ⟨hbusy, _, _, hscratch⟩ := hs
  exact ⟨hbusy, by simp [Machine.initialise], by simp [Machine.initialise], hscratch⟩

/-- An issue sets BUSY and PEND together, and clears DONE. -/
theorem Consistent.issue {s : State} {p : Pend} (hp : p ≠ .none) (hs : Consistent s) : Consistent (issue p s) := by
  obtain ⟨_, herr, _, hscratch⟩ := hs
  exact ⟨by simp [Machine.issue, hp], herr, by simp [Machine.issue], hscratch⟩

/-- FINAL issues an operation, or records ILLEGAL_CMD. -/
theorem Consistent.issueFinal {s : State} (n : BitVec 7) (hs : Consistent s) : Consistent (issueFinal n s) := by
  unfold Machine.issueFinal
  split
  · exact hs.issue (by simp)
  · exact hs.raiseError .illegalCmd

theorem Consistent.commandEffect {s : State} (i : Instr) (hs : Consistent s) : Consistent (commandEffect i s) := by
  cases i with
  | nop => exact hs
  | init => exact hs.initialise
  | block => exact hs.issue (by simp)
  | final n => exact hs.issueFinal n
  | clrerr => exact hs.clearError

theorem Consistent.exec {s t : State} {i : Instr} (hs : Consistent s) (h : exec i s = .next t) : Consistent t := by
  rcases exec_next_cases h with ⟨_, rfl⟩ | ⟨_, rfl⟩
  · exact hs.raiseError .busyWrite
  · exact hs.commandEffect i

theorem Consistent.busRead {s : State} (off : BitVec 8) (size : Nat) (hs : Consistent s) :
    Consistent (busRead off size s).2 := by
  rcases busRead_state_cases off size s with hread | hread | ⟨c, hread⟩ <;> rw [hread]
  · exact hs
  · exact hs.congr rfl rfl rfl
  · exact hs.raiseError c

theorem Consistent.writeReg {s : State} (off : BitVec 8) (size : Nat) (v : Word) (hs : Consistent s) :
    Consistent (writeReg s off size v) := by
  obtain ⟨hstatus, hpend, hscratch, _⟩ := writeReg_frame s off size v
  exact hs.congr hstatus hpend hscratch

theorem Consistent.busWrite {s t : State} {off : BitVec 8} {size : Nat} {v : Word} (hs : Consistent s)
    (h : busWrite off size v s = .next t) : Consistent t := by
  rcases busWrite_outcome_cases off size v s with ⟨c, hwrite⟩ | ⟨_, ⟨i, hwrite⟩ | hwrite⟩ <;> rw [hwrite] at h
  · cases h
    exact hs.raiseError c
  · exact hs.exec h
  · cases h
    exact hs.writeReg off size v

theorem Consistent.transact {s t : State} {x : Txn} (hs : Consistent s) (h : transact x s = .next t) :
    Consistent t := by
  cases x with
  | read off size =>
    cases h
    exact (hs.busRead off size).congr rfl rfl rfl
  | write off size v => exact hs.busWrite h

/-- A completion clears BUSY and PEND together and leaves the scratch dead; BLOCK's keeps DONE, which was 0 while BUSY was 1, and FINAL's sets it with BUSY now 0. -/
theorem Consistent.engineStep {s : State} (hs : Consistent s) : Consistent (engineStep s) := by
  have ⟨_, herr, _, _⟩ := hs
  rcases engineStep_cases s with ⟨_, hengine⟩ | ⟨_, hengine⟩ | ⟨n, _, hengine⟩ <;> rw [hengine]
  · exact hs
  · exact ⟨by simp [retireBlock], herr, by simp [retireBlock], rfl⟩
  · exact ⟨by simp [retireFinal], herr, by simp [retireFinal], rfl⟩

/-- Settles O13: at reset nothing is pending, no error is recorded and the scratch is dead. -/
theorem resetIsConsistent : Obligations.ResetIsConsistent := by
  unfold Obligations.ResetIsConsistent
  exact ⟨by simp [State.reset], by simp [State.reset], by simp [State.reset], rfl⟩

/-- The reset input gives the block the registers of `State.reset`, so the invariant holds whatever held before. -/
theorem consistent_resetBlock (s : State) : Consistent (resetBlock s) :=
  Consistent.congr (s := State.reset) resetIsConsistent rfl rfl rfl

theorem Consistent.takeEvent {s t : State} {e : Event} (hs : Consistent s) (h : takeEvent e s = .next t) :
    Consistent t := by
  cases e with
  | bus x => exact hs.transact h
  | engine =>
    cases h
    exact hs.engineStep
  | reset =>
    cases h
    exact consistent_resetBlock s

/-- Settles O14: the step is one event, or the engine's turn on an empty agenda, and each of them keeps the invariant. -/
theorem stepKeepsConsistent : Obligations.StepKeepsConsistent := by
  intro s t hs hstep
  cases hagenda : s.agenda with
  | nil =>
    rw [step_nil hagenda] at hstep
    cases hstep
    exact hs.engineStep
  | cons e rest =>
    rw [step_cons hagenda] at hstep
    exact (hs.congr (t := s.setAgenda rest) rfl rfl rfl).takeEvent hstep

end Sys2Proof.Machine
end

section
/-! SUPPORT. What each command writes and leaves (10_state.md R36). -/

namespace Sys2Proof.Machine

/-- A FINAL within its range issues its operation (43_finalization.md R158). -/
theorem issueFinal_of_le {n : BitVec 7} (hn : n.toNat ≤ 64) (s : State) :
    issueFinal n s = issue (.finalOp ⟨n.toNat, by omega⟩) s := by
  simp [issueFinal, finalLength_of_le hn]

/-- A FINAL above 64 only records ILLEGAL_CMD (43_finalization.md R158). -/
theorem issueFinal_of_gt {n : BitVec 7} (hn : 64 < n.toNat) (s : State) :
    issueFinal n s = raiseError .illegalCmd s := by
  simp [issueFinal, finalLength_of_gt hn]

/-- The only ill-formed commands are FINALs above 64, and such a command only records ILLEGAL_CMD (30_encoding.md R85). -/
theorem commandEffect_of_illFormed {i : Instr} (hi : i.wellFormed = false) (s : State) :
    commandEffect i s = raiseError .illegalCmd s := by
  cases i with
  | final n => exact issueFinal_of_gt (by simpa [Instr.wellFormed] using hi) s
  | nop | init | block | clrerr => simp [Instr.wellFormed] at hi

/-- No command's effect touches BUF, the scratch or the outside. -/
theorem commandEffect_frame (i : Instr) (s : State) :
    (commandEffect i s).buf = s.buf ∧ (commandEffect i s).scratch = s.scratch ∧
    SameOutside s (commandEffect i s) := by
  cases i with
  | nop | init | block | clrerr => exact ⟨rfl, rfl, rfl, rfl, rfl⟩
  | final n =>
    simp only [commandEffect, issueFinal]
    split <;> exact ⟨rfl, rfl, rfl, rfl, rfl⟩

/-- Nor does a command, dropped or performed. -/
theorem exec_frame {i : Instr} {s t : State} (h : exec i s = .next t) :
    t.buf = s.buf ∧ t.scratch = s.scratch ∧ SameOutside s t := by
  rcases exec_next_cases h with ⟨_, rfl⟩ | ⟨_, rfl⟩
  · exact ⟨rfl, rfl, rfl, rfl, rfl⟩
  · exact commandEffect_frame i s

/-- Settles O20: a command is dropped, refused or performed; a performed one is its effect, read off column by column. -/
theorem commandsWriteOnlyWhatRule36Allows : Obligations.CommandsWriteOnlyWhatRule36Allows := by
  intro i s t h
  obtain ⟨hbuf, hscratch, houtside⟩ := exec_frame h
  refine ⟨hbuf, hscratch, houtside, ?_⟩
  rcases exec_next_cases h with ⟨hbusy, rfl⟩ | ⟨hidle, rfl⟩
  · simp [hbusy]
  · refine ⟨by simp [hidle], fun _ hi => commandEffect_of_illFormed hi s, fun _ hi => ?_⟩
    cases i with
    | nop => simp [commandEffect, hidle]
    | init => simp [commandEffect, initialise, hidle]
    | block => simp [commandEffect, issue]
    | final n =>
      have hn : n.toNat ≤ 64 := by simpa [Instr.wellFormed] using hi
      simp [commandEffect, issueFinal_of_le hn, issue]
    | clrerr => simp [commandEffect, clearError, hidle]

end Sys2Proof.Machine
end

section
/-! SUPPORT. The compression run in the scratch against the pure function (42_compression.md R137): the schedule does not depend on what W held (10_state.md R29), and n rounds in the scratch are n rounds on plain values. -/

namespace Sys2Proof.Machine

/-- Two schedules with the same words below `k`: as far as they are written, they do not show what W held. -/
def AgreeBelow (k : Nat) (u v : Vector Word 64) : Prop := ∀ j, j < k → wordAt u j = wordAt v j

/-- The same word written next to both extends the agreement by one. -/
theorem AgreeBelow.set {k : Nat} {u v : Vector Word 64} (h : AgreeBelow k u v) (hk : k < 64) (x : Word) :
    AgreeBelow (k + 1) (u.setIfInBounds k x) (v.setIfInBounds k x) := by
  intro j hj
  rw [wordAt_set _ _ _ _ hk, wordAt_set _ _ _ _ hk]
  split
  · rfl
  · exact h j (by omega)

theorem AgreeBelow.eq {u v : Vector Word 64} (h : AgreeBelow 64 u v) : u = v := by
  apply Vector.ext
  intro i hi
  simpa [wordAt_of_lt, hi] using h i hi

/-- The words loaded from the block are the same over any two contents of W. -/
theorem agreeBelow_loadSchedule (b : Vector Byte 64) (u v : Vector Word 64) :
    ∀ n, n ≤ 64 → AgreeBelow n (loadSchedule b u n) (loadSchedule b v n)
  | 0, _ => fun _ hj => absurd hj (Nat.not_lt_zero _)
  | n + 1, hn => (agreeBelow_loadSchedule b u v n (by omega)).set (by omega) _

/-- The recurrence reads only words before the one it computes (42_compression.md R132). -/
theorem AgreeBelow.nextScheduleWord_eq {t : Nat} {u v : Vector Word 64} (h : AgreeBelow t u v) (ht : 16 ≤ t) :
    nextScheduleWord u t = nextScheduleWord v t := by
  simp only [nextScheduleWord]
  rw [h (t - 2) (by omega), h (t - 7) (by omega), h (t - 15) (by omega), h (t - 16) (by omega)]

/-- Computing further words keeps the agreement. -/
theorem AgreeBelow.extendSchedule {u v : Vector Word 64} (h : AgreeBelow 16 u v) :
    ∀ n, n ≤ 48 → AgreeBelow (16 + n) (extendSchedule u n) (extendSchedule v n)
  | 0, _ => h
  | n + 1, hn => by
    have ih := h.extendSchedule n (by omega)
    simp only [Machine.extendSchedule]
    rw [ih.nextScheduleWord_eq (by omega)]
    exact ih.set (by omega) _

/-- The schedule is the same whatever W held: every entry is written before it is read (10_state.md R29). -/
theorem schedule_eq (b : Vector Byte 64) (u v : Vector Word 64) : schedule b u = schedule b v :=
  ((agreeBelow_loadSchedule b u v 16 (by omega)).extendSchedule 48 (by omega)).eq

/-- The rounds in the scratch leave the schedule as it was loaded. -/
theorem scratchRounds_w (n : Nat) (x : Scratch) : (scratchRounds n x).w = x.w := by
  induction n with
  | zero => rfl
  | succ n ih => exact ih

/-- From t = 0 the round counter is the number of rounds done, modulo 64. -/
theorem scratchRounds_t (n : Nat) {x : Scratch} (hx : x.t = 0) : ((scratchRounds n x).t : Nat) = n % 64 := by
  induction n with
  | zero => simp [scratchRounds, hx]
  | succ n ih => simp [scratchRounds, scratchRound, Fin.val_add, ih]

/-- Up to 64 rounds in the scratch, from t = 0, do to a..h what `rounds` does: the counter is the index of the round. -/
theorem scratchRounds_vars {n : Nat} (hn : n ≤ 64) {x : Scratch} (hx : x.t = 0) :
    (scratchRounds n x).vars = rounds x.w x.vars n := by
  induction n with
  | zero => rfl
  | succ n ih =>
    have ht : ((scratchRounds n x).t : Nat) = n := by rw [scratchRounds_t n hx, Nat.mod_eq_of_lt hn]
    simp only [scratchRounds, scratchRound, rounds]
    rw [ih (by omega), scratchRounds_w, ht]

/-- `n` rounds of a compression in the state. Stated for a variable `n`, as `compressRounds_frame` is. -/
theorem compressRounds_h {n : Nat} (hn : n ≤ 64) (b : Vector Byte 64) (s : State) :
    (compressRounds n b s).h =
      addBack s.h (rounds (schedule b (Vector.replicate 64 0#32)) (Vars.ofState s.h) n) := by
  have hvars := scratchRounds_vars hn (x := loadScratch b s.h s.scratch) rfl
  simp only [compressRounds, finishScratch, State.setScratch_h, State.setH_h, State.setScratch_scratch, hvars]
  simp only [loadScratch, schedule_eq b s.scratch.w (Vector.replicate 64 0#32)]

/-- Settles O21: the frame of a compression, and in H the 64 rounds on plain values over a schedule that never shows the old W. -/
theorem scratchRunIsCompress : Obligations.ScratchRunIsCompress := by
  intro b s
  have hh : (compressInState b s).h = compress s.h b := compressRounds_h (Nat.le_refl 64) b s
  rw [compressInState_frame, hh]

end Sys2Proof.Machine
end

section
/-! SUPPORT. The host against a busy block (10_state.md R35, 60_exceptions.md R193). -/

namespace Sys2Proof.Machine

/-- What a pending operation reads at its completion, BUSY and DONE, and the agenda are the same in both states. The error record, the replies and the draw counter may differ. -/
structure Undisturbed (s t : State) : Prop where
  h : t.h = s.h
  buf : t.buf = s.buf
  total : t.total = s.total
  pend : t.pend = s.pend
  busy : t.status.busy = s.status.busy
  done : t.status.done = s.status.done
  scratch : t.scratch = s.scratch
  agenda : t.agenda = s.agenda

theorem undisturbed_refl (s : State) : Undisturbed s s := ⟨rfl, rfl, rfl, rfl, rfl, rfl, rfl, rfl⟩

theorem undisturbed_raiseError (c : ErrorCode) (s : State) : Undisturbed s (raiseError c s) :=
  ⟨rfl, rfl, rfl, rfl, Status.raise_busy .., Status.raise_done .., rfl, rfl⟩

/-- A read, of any offset and size, leaves what the operation reads. -/
theorem undisturbed_busRead (off : BitVec 8) (size : Nat) (s : State) :
    Undisturbed s (busRead off size s).2 := by
  rcases busRead_state_cases off size s with hread | hread | ⟨c, hread⟩ <;> rw [hread]
  · exact undisturbed_refl s
  · exact ⟨rfl, rfl, rfl, rfl, rfl, rfl, rfl, rfl⟩
  · exact undisturbed_raiseError c s

/-- On a busy block every write is refused (60_exceptions.md R194, line 6). -/
theorem busWrite_busy {s : State} (hbusy : s.status.busy = true) (off : BitVec 8) (size : Nat) (v : Word) :
    ∃ c, busWrite off size v s = .next (raiseError c s) := by
  rcases busWrite_outcome_cases off size v s with herror | ⟨hidle, _⟩
  · exact herror
  · simp [hbusy] at hidle

/-- One transaction on a busy block is answered, and leaves the operation undisturbed. -/
theorem transact_busy {s : State} (hbusy : s.status.busy = true) (x : Txn) :
    ∃ t, transact x s = .next t ∧ Undisturbed s t := by
  cases x with
  | read off size =>
    have hread := undisturbed_busRead off size s
    exact ⟨_, rfl, hread.h, hread.buf, hread.total, hread.pend, hread.busy, hread.done, hread.scratch, hread.agenda⟩
  | write off size v =>
    obtain ⟨c, hwrite⟩ := busWrite_busy hbusy off size v
    exact ⟨_, hwrite, undisturbed_raiseError c s⟩

/-- Any number of transactions on a busy block: induction over them, the block still busy after each. -/
theorem run_txns_busy (txns : List Txn) (rest : List Event) :
    ∀ s : State, s.status.busy = true → s.agenda = txns.map .bus ++ rest →
      ∃ t, Host.Core.run Sys2Proof.core txns.length s = .next t ∧ Undisturbed (s.setAgenda rest) t := by
  induction txns with
  | nil =>
    intro s _ hagenda
    have hrest : s.agenda = rest := hagenda
    exact ⟨s, run_zero s, by rw [← hrest, State.setAgenda_self]; exact undisturbed_refl s⟩
  | cons x txns ih =>
    intro s hbusy hagenda
    obtain ⟨u, htransact, hu⟩ := transact_busy (s := s.setAgenda (txns.map .bus ++ rest)) hbusy x
    have hstep : step s = .next u := (step_cons hagenda).trans htransact
    obtain ⟨t, hrun, ht⟩ := ih u (hu.busy.trans hbusy) hu.agenda
    exact ⟨t, (run_succ _ hstep).trans hrun, ht.h.trans hu.h, ht.buf.trans hu.buf, ht.total.trans hu.total,
      ht.pend.trans hu.pend, ht.busy.trans hu.busy, ht.done.trans hu.done, ht.scratch.trans hu.scratch, ht.agenda⟩

/-- Settles O26, by induction over the host's transactions: each leaves the operation undisturbed and BUSY at 1. -/
theorem hostCannotDisturbThePendingOperation : Obligations.HostCannotDisturbThePendingOperation := by
  intro txns rest s hbusy hagenda
  obtain ⟨t, hrun, ht⟩ := run_txns_busy txns rest s hbusy hagenda
  exact ⟨t, hrun, ht.h, ht.buf, ht.total, ht.pend, ht.busy.trans hbusy, ht.done, ht.scratch, ht.agenda⟩

end Sys2Proof.Machine
end

section
/-! SUPPORT. Reads of an idle block, and the values after reset (10_state.md R34). -/

namespace Sys2Proof.Machine

/-- On an idle block a read that passes the check answers with the register and changes nothing but the replies (20_memory.md R66). -/
theorem transact_read_idle {s : State} {off : BitVec 8} {size : Nat} (hidle : s.status.busy = false)
    (hcheck : check s off size .read 0#32 = none) :
    transact (.read off size) s = .next (reply (readReg s off size) s) := by
  rcases busRead_cases off size s with ⟨c, herror, _⟩ | ⟨_, hbusy, _⟩ | ⟨_, _, hread⟩
  · simp [hcheck] at herror
  · simp [hidle] at hbusy
  · rw [transact, hread]

/-- Settles O11: the fields by the definition of reset, STATUS and ID as the bus reads them. -/
theorem resetLeavesTheValuesOfRule34 : Obligations.ResetLeavesTheValuesOfRule34 := by
  have hbuf : ∀ k, k < 64 → byteAt State.reset.buf k = 0#8 := fun k _ => byteAt_replicate k
  have hstatus : transact (.read 0x44#8 4) State.reset = .next (reply 0#32 State.reset) :=
    transact_read_idle rfl (by decide)
  have hid : transact (.read 0x50#8 4) State.reset = .next (reply 0x53323536 State.reset) :=
    transact_read_idle rfl (by decide)
  exact ⟨rfl, hbuf, rfl, rfl, rfl, rfl, rfl, rfl, hstatus, hid⟩

end Sys2Proof.Machine
end

section
/-! SUPPORT. The four bytes of a big-endian word (41_byte_order.md R120), and the first sixteen words of the schedule (42_compression.md R131). -/

namespace Sys2Proof.Machine

/-- Each byte of four put together stands at its lane, the first the most significant. -/
theorem extractLsb'_append_bytes (a b c d : Byte) :
    (a ++ b ++ c ++ d).extractLsb' 24 8 = a ∧ (a ++ b ++ c ++ d).extractLsb' 16 8 = b ∧
    (a ++ b ++ c ++ d).extractLsb' 8 8 = c ∧ (a ++ b ++ c ++ d).extractLsb' 0 8 = d := by
  have last {w : Nat} (v : BitVec w) (x : Byte) : (v ++ x).extractLsb' 0 8 = x :=
    (BitVec.extractLsb'_append_eq_of_add_le (by decide)).trans BitVec.extractLsb'_eq_self
  have skip {w k : Nat} (v : BitVec w) (x : Byte) : (v ++ x).extractLsb' (k + 8) 8 = v.extractLsb' k 8 :=
    BitVec.extractLsb'_append_eq_of_le (by omega)
  have hb : (a ++ b ++ c).extractLsb' 8 8 = b := (skip _ c).trans (last a b)
  have ha : (a ++ b ++ c).extractLsb' 16 8 = a :=
    (skip _ c).trans ((skip a b).trans BitVec.extractLsb'_eq_self)
  exact ⟨(skip _ d).trans ha, (skip _ d).trans hb, (skip _ d).trans (last _ c), last _ d⟩

/-- Byte m of a word read big-endian is the byte at the same place of the sequence (20_memory.md R64). -/
theorem byteOf_be32 {n : Nat} (b : Vector Byte n) (k : Nat) {m : Nat} (hm : m < 4) :
    byteOf (be32 b k) 4 m = byteAt b (k + m) := by
  obtain ⟨h0, h1, h2, h3⟩ := extractLsb'_append_bytes (byteAt b k) (byteAt b (k + 1)) (byteAt b (k + 2)) (byteAt b (k + 3))
  interval_cases m
  · exact h0
  · exact h1
  · exact h2
  · exact h3

/-- A word is its four bytes put together, the most significant first. -/
theorem byteOf_append (v : Word) : byteOf v 4 0 ++ byteOf v 4 1 ++ byteOf v 4 2 ++ byteOf v 4 3 = v := by
  have h16 : v.extractLsb' 24 8 ++ v.extractLsb' 16 8 = v.extractLsb' 16 16 :=
    BitVec.extractLsb'_append_extractLsb'_eq_extractLsb' rfl
  have h8 : v.extractLsb' 16 16 ++ v.extractLsb' 8 8 = v.extractLsb' 8 24 :=
    BitVec.extractLsb'_append_extractLsb'_eq_extractLsb' rfl
  have h0 : v.extractLsb' 8 24 ++ v.extractLsb' 0 8 = v.extractLsb' 0 32 :=
    BitVec.extractLsb'_append_extractLsb'_eq_extractLsb' rfl
  change v.extractLsb' 24 8 ++ v.extractLsb' 16 8 ++ v.extractLsb' 8 8 ++ v.extractLsb' 0 8 = v
  rw [h16, h8, h0, BitVec.extractLsb'_eq_self]

/-- Four bytes that are those of `v` read big-endian as `v`. -/
theorem be32_eq_of_bytes {n : Nat} {b : Vector Byte n} {k : Nat} {v : Word}
    (hbytes : ∀ m, m < 4 → byteAt b (k + m) = byteOf v 4 m) : be32 b k = v := by
  rw [be32, hbytes 1 (by omega), hbytes 2 (by omega), hbytes 3 (by omega),
    show byteAt b k = byteOf v 4 0 from hbytes 0 (by omega), byteOf_append]

/-- Byte m of a stored word stands m places on (20_memory.md R55). -/
theorem byteAt_storeWord_same (b : Vector Byte 64) {k m : Nat} (hk : k + 3 < 64) (v : Word) (hm : m < 4) :
    byteAt (storeWord b k v) (k + m) = byteOf v 4 m := by
  rw [byteAt_storeWord _ _ _ _ hk, if_pos (by omega), Nat.add_sub_cancel_left]

/-- A stored word reads back (20_memory.md R55). -/
theorem be32_storeWord (b : Vector Byte 64) {k : Nat} (hk : k + 3 < 64) (v : Word) :
    be32 (storeWord b k v) k = v :=
  be32_eq_of_bytes fun _ hm => byteAt_storeWord_same b hk v hm

/-- Byte 4i + m of the digest is byte m of H[i] (10_state.md R27). -/
theorem byteAt_digest (h : Vector Word 8) {i m : Nat} (hi : i < 8) (hm : m < 4) :
    byteAt (digest h) (4 * i + m) = byteOf (wordAt h i) 4 m := by
  rw [digest, byteAt_ofFn _ (by omega), show (4 * i + m) / 4 = i by omega, show (4 * i + m) % 4 = m by omega]

/-- Word i of the digest is H[i] (20_memory.md R61). -/
theorem be32_digest (h : Vector Word 8) {i : Nat} (hi : i < 8) : be32 (digest h) (4 * i) = wordAt h i :=
  be32_eq_of_bytes fun _ hm => byteAt_digest h hi hm

/-- Once loaded, word j of the schedule is word j of the block (42_compression.md R131). -/
theorem wordAt_loadSchedule (b : Vector Byte 64) (w : Vector Word 64) {j : Nat} :
    ∀ n, n ≤ 64 → j < n → wordAt (loadSchedule b w n) j = be32 b (4 * j)
  | 0, _, hj => absurd hj (Nat.not_lt_zero j)
  | n + 1, hn, hj => by
    rw [loadSchedule, wordAt_set _ _ _ _ (by omega)]
    split
    next heq => rw [heq]
    next hne => exact wordAt_loadSchedule b w n (by omega) (by omega)

/-- The recurrence writes no word below 16 (42_compression.md R132). -/
theorem wordAt_extendSchedule_of_lt (w : Vector Word 64) {j : Nat} (hj : j < 16) :
    ∀ n, n ≤ 48 → wordAt (extendSchedule w n) j = wordAt w j
  | 0, _ => rfl
  | n + 1, hn => by
    rw [extendSchedule, wordAt_set _ _ _ _ (by omega), if_neg (by omega)]
    exact wordAt_extendSchedule_of_lt w hj n (by omega)

/-- The first sixteen schedule words are the block's words (42_compression.md R131). -/
theorem wordAt_schedule_of_lt (b : Vector Byte 64) (w : Vector Word 64) {j : Nat} (hj : j < 16) :
    wordAt (schedule b w) j = be32 b (4 * j) := by
  rw [schedule, wordAt_extendSchedule_of_lt _ hj 48 (by omega), wordAt_loadSchedule b w 16 (by omega) hj]

end Sys2Proof.Machine
end

section
/-! SUPPORT. The rules of one transaction: which accesses pass the check (60_exceptions.md R194), and what a passed, an unspecified and a refused one leave. -/

namespace Sys2Proof.Machine

/-- A read that the check refuses answers 0 and records its error (20_memory.md R63). -/
theorem transact_read_refused {s : State} {off : BitVec 8} {size : Nat} {c : ErrorCode}
    (hcheck : check s off size .read 0#32 = some c) :
    transact (.read off size) s = .next (reply 0#32 (raiseError c s)) := by
  simp [transact, busRead, hcheck]

/-- A write that the check refuses records its error and does no more (20_memory.md R63). -/
theorem transact_write_refused {s : State} {off : BitVec 8} {size : Nat} {v : Word} {c : ErrorCode}
    (hcheck : check s off size .write v = some c) : transact (.write off size v) s = .next (raiseError c s) := by
  simp [transact, busWrite, hcheck]

/-- A data read of a busy block draws the next free value (20_memory.md R62). -/
theorem transact_read_draw {s : State} {off : BitVec 8} {size : Nat} (hbusy : s.status.busy = true)
    (hcheck : check s off size .read 0#32 = none) (hdata : (region off).unspecifiedWhileBusy = true) :
    transact (.read off size) s = .next (reply (unspecified size s.draws) (s.setDraws (s.draws + 1))) := by
  simp [transact, busRead, hcheck, hbusy, hdata]

/-- A read of CMD, STATUS or ID is exact at any time (20_memory.md R58 to R60). -/
theorem transact_read_exact {s : State} {off : BitVec 8} {size : Nat}
    (hcheck : check s off size .read 0#32 = none) (hexact : (region off).unspecifiedWhileBusy = false) :
    transact (.read off size) s = .next (reply (readReg s off size) s) := by
  simp [transact, busRead, hcheck, hexact]

/-- A passed write outside CMD stores into its register (20_memory.md R52). -/
theorem transact_write_data {s : State} {off : BitVec 8} {size : Nat} {v : Word}
    (hcheck : check s off size .write v = none) (hdata : region off ≠ .cmd) :
    transact (.write off size v) s = .next (writeReg s off size v) := by
  simp [transact, busWrite, hcheck, hdata]

/-- A byte read passes where bytes are legal (20_memory.md R65). -/
theorem check_read_byte (s : State) {off : BitVec 8} (hbyte : (region off).byteWide = true) (v : Word) :
    check s off 1 .read v = none := by
  have hmapped : region off ≠ .unmapped := by
    intro h
    simp [h, Region.byteWide] at hbyte
  exact (check_none_iff ..).mpr ⟨.inl rfl, by simp, hmapped, fun _ => hbyte, by simp⟩

/-- An aligned word read passes at every mapped offset. -/
theorem check_read_word (s : State) {off : BitVec 8} (haligned : off.toNat % 4 = 0)
    (hmapped : region off ≠ .unmapped) (v : Word) : check s off 4 .read v = none :=
  (check_none_iff ..).mpr ⟨.inr rfl, fun _ => haligned, hmapped, by simp, by simp⟩

/-- The regions a host may write, CMD aside: the registers `writeReg` stores into (20_memory.md R51). -/
def Region.writable : Region → Bool
  | .buf | .totalLo | .totalHi | .h => true
  | .cmd | .status | .id | .digest | .unmapped => false

theorem Region.writable_iff (r : Region) :
    r.writable = true ↔ r ≠ .unmapped ∧ r.readOnly = false ∧ r ≠ .cmd := by
  cases r <;> decide

/-- A write to a data register of an idle block passes whenever the read of the same size does. -/
theorem transact_write_idle {s : State} {off : BitVec 8} {size : Nat} (hidle : s.status.busy = false)
    (hread : check s off size .read 0#32 = none) (hwritable : (region off).writable = true) (v : Word) :
    transact (.write off size v) s = .next (writeReg s off size v) := by
  obtain ⟨_, hrw, hdata⟩ := (Region.writable_iff _).mp hwritable
  obtain ⟨hsize, haligned, hmapped, hbyte, _⟩ := (check_none_iff ..).mp hread
  have hcheck : check s off size .write v = none :=
    (check_none_iff ..).mpr ⟨hsize, haligned, hmapped, hbyte, fun _ => ⟨hrw, hidle, fun h => absurd h hdata⟩⟩
  exact transact_write_data hcheck hdata

/-- A CMD write of a word that decodes is the command, on an idle block and on a busy one, where both record BUSY_WRITE (20_memory.md R59). -/
theorem transact_command {v : Word} {i : Instr} (hdecode : decode v = .ok i) (s : State) :
    transact (.write 0x40#8 4 v) s = exec i s := by
  have hlegal := legalCmd_of_decode hdecode
  have hregion : region 0x40#8 = .cmd := rfl
  cases hb : s.status.busy with
  | true =>
    have hcheck : check s 0x40#8 4 .write v = some .busyWrite := by
      simp [check, hregion, hb, Region.readOnly]
    rw [transact_write_refused hcheck, exec_eq, whenIdle_busy hb]
  | false =>
    have hcheck : check s 0x40#8 4 .write v = none := by
      simp [check, hregion, hb, hlegal, Region.readOnly]
    simp [transact, busWrite, hcheck, hregion, performCommand, hdecode]

end Sys2Proof.Machine
end

section
/-! SUPPORT. `readReg` and `writeReg` at the offsets of BUF, H and DIGEST, by the index the offset stands for (20_memory.md R54 to R56, R61). -/

namespace Sys2Proof.Machine

/-- An offset keeps its number: the window has 256 of them (20_memory.md R50). -/
theorem toNat_offset {k : Nat} (hk : k < 256) : (BitVec.ofNat 8 k).toNat = k := by
  rw [BitVec.toNat_ofNat, Nat.mod_eq_of_lt hk]

theorem region_bufOffset {k : Nat} (hk : k < 64) : region (BitVec.ofNat 8 k) = .buf :=
  region_buf (by rw [toNat_offset (by omega)]; omega)

theorem region_hOffset {i : Nat} (hi : i < 8) : region (BitVec.ofNat 8 (0x60 + 4 * i)) = .h := by
  apply region_h <;> rw [toNat_offset (by omega)] <;> omega

theorem region_digestOffset {k : Nat} (hk : k < 32) : region (BitVec.ofNat 8 (0x80 + k)) = .digest := by
  apply region_digest <;> rw [toNat_offset (by omega)] <;> omega

theorem readReg_buf_byte (s : State) {k : Nat} (hk : k < 64) :
    readReg s (BitVec.ofNat 8 k) 1 = (byteAt s.buf k).setWidth 32 := by
  simp only [readReg, region_bufOffset hk, toNat_offset (show k < 256 by omega), if_true]

theorem readReg_buf_word (s : State) {k : Nat} (hk : k < 64) :
    readReg s (BitVec.ofNat 8 k) 4 = be32 s.buf k := by
  simp [readReg, region_bufOffset hk, toNat_offset (show k < 256 by omega), -BitVec.toNat_ofNat]

theorem hIndex_offset {i : Nat} (hi : i < 8) : hIndex (BitVec.ofNat 8 (0x60 + 4 * i)) = i := by
  rw [hIndex, toNat_offset (by omega)]
  omega

theorem digestIndex_offset {k : Nat} (hk : k < 32) : digestIndex (BitVec.ofNat 8 (0x80 + k)) = k := by
  unfold digestIndex
  simp only [toNat_offset (show 0x80 + k < 256 by omega), Nat.add_sub_cancel_left]

theorem readReg_h (s : State) {i : Nat} (hi : i < 8) :
    readReg s (BitVec.ofNat 8 (0x60 + 4 * i)) 4 = wordAt s.h i := by
  simp only [readReg, region_hOffset hi, hIndex_offset hi]

theorem readReg_digest_byte (s : State) {k : Nat} (hk : k < 32) :
    readReg s (BitVec.ofNat 8 (0x80 + k)) 1 = (byteAt (digest s.h) k).setWidth 32 := by
  simp only [readReg, region_digestOffset hk, digestIndex_offset hk, if_true]

theorem readReg_digest_word (s : State) {k : Nat} (hk : k < 32) :
    readReg s (BitVec.ofNat 8 (0x80 + k)) 4 = be32 (digest s.h) k := by
  simp [readReg, region_digestOffset hk, digestIndex_offset hk]

theorem writeReg_buf_byte (s : State) {k : Nat} (hk : k < 64) (v : Word) :
    writeReg s (BitVec.ofNat 8 k) 1 v = s.setBuf (s.buf.setIfInBounds k (v.extractLsb' 0 8)) := by
  simp only [writeReg, region_bufOffset hk, toNat_offset (show k < 256 by omega), if_true]

theorem writeReg_buf_word (s : State) {k : Nat} (hk : k < 64) (v : Word) :
    writeReg s (BitVec.ofNat 8 k) 4 v = s.setBuf (storeWord s.buf k v) := by
  simp [writeReg, region_bufOffset hk, toNat_offset (show k < 256 by omega), -BitVec.toNat_ofNat]

theorem writeReg_h (s : State) {i : Nat} (hi : i < 8) (v : Word) :
    writeReg s (BitVec.ofNat 8 (0x60 + 4 * i)) 4 v = s.setH (s.h.setIfInBounds i v) := by
  simp [writeReg, region_hOffset hi, hIndex_offset hi]

end Sys2Proof.Machine
end

section
/-! SUPPORT. BUF, H, DIGEST and TOTAL over the bus (20_memory.md R54 to R57, R61, R64). -/

namespace Sys2Proof.Machine

/-- Settles O31: the write is one byte set in BUF. -/
theorem bufByteAccess : Obligations.BufByteAccess := by
  intro s k hk hidle
  have hregion := region_bufOffset hk
  have hread := check_read_byte s (off := BitVec.ofNat 8 k) (by rw [hregion]; rfl) 0#32
  refine ⟨by rw [transact_read_idle hidle hread, readReg_buf_byte s hk], fun v => ?_⟩
  refine ⟨_, transact_write_idle hidle hread (by rw [hregion]; rfl) v, ?_⟩
  rw [writeReg_buf_byte s hk]
  have hset (j : Nat) := byteAt_set s.buf k j (v.extractLsb' 0 8) hk
  exact ⟨(hset k).trans (if_pos rfl), fun j hj => (hset j).trans (if_neg hj), rfl, rfl, rfl, rfl, rfl, rfl, rfl, rfl⟩

/-- Settles O32: the write is a big-endian store of four bytes in BUF, and the schedule loads them as one word. -/
theorem bufWordAccess : Obligations.BufWordAccess := by
  intro s j hj hidle
  have hk : 4 * j < 64 := by omega
  have hregion := region_bufOffset hk
  have hread := check_read_word s (off := BitVec.ofNat 8 (4 * j))
    (by rw [toNat_offset (by omega)]; omega) (by simp [hregion]) 0#32
  refine ⟨by rw [transact_read_idle hidle hread, readReg_buf_word s hk, be32], fun v => ?_⟩
  refine ⟨_, transact_write_idle hidle hread (by rw [hregion]; rfl) v, ?_⟩
  rw [writeReg_buf_word s hk]
  have hstored : ∀ m, m < 4 → byteAt (storeWord s.buf (4 * j) v) (4 * j + m) = byteOf v 4 m := fun m hm =>
    byteAt_storeWord_same s.buf (by omega) v hm
  have hkept : ∀ k, k < 4 * j ∨ 4 * j + 4 ≤ k → byteAt (storeWord s.buf (4 * j) v) k = byteAt s.buf k := by
    intro k hk
    rw [byteAt_storeWord _ _ _ _ (by omega), if_neg (by omega)]
  have hword : be32 (storeWord s.buf (4 * j) v) (4 * j) = v := be32_storeWord s.buf (by omega) v
  exact ⟨hstored 0 (by omega), hstored 1 (by omega), hstored 2 (by omega), hstored 3 (by omega), hkept, hword,
    fun w => (wordAt_schedule_of_lt _ w hj).trans hword, rfl, rfl, rfl, rfl, rfl, rfl, rfl, rfl⟩

/-- Settles O33: the write is one word set in H. -/
theorem hWordAccess : Obligations.HWordAccess := by
  intro s i hi hidle
  have hregion := region_hOffset hi
  have hread := check_read_word s (off := BitVec.ofNat 8 (0x60 + 4 * i))
    (by rw [toNat_offset (by omega)]; omega) (by simp [hregion]) 0#32
  refine ⟨by rw [transact_read_idle hidle hread, readReg_h s hi], fun v => ?_⟩
  refine ⟨_, transact_write_idle hidle hread (by rw [hregion]; rfl) v, ?_⟩
  rw [writeReg_h s hi]
  have hset (j : Nat) := wordAt_set s.h i j v hi
  exact ⟨(hset i).trans (if_pos rfl), fun j hj => (hset j).trans (if_neg hj), rfl, rfl, rfl, rfl, rfl, rfl, rfl, rfl⟩

/-- Settles O37: DIGEST is the bytes of H in order, so its word i is H[i]. -/
theorem digestReads : Obligations.DigestReads := by
  intro s i hi hidle
  have hword := check_read_word s (off := BitVec.ofNat 8 (0x80 + 4 * i))
    (by rw [toNat_offset (by omega)]; omega) (by simp [region_digestOffset (show 4 * i < 32 by omega)]) 0#32
  refine ⟨by rw [transact_read_idle hidle hword, readReg_digest_word s (by omega), be32_digest s.h hi], ?_⟩
  intro j hj
  have hk : 4 * i + j < 32 := by omega
  have hbyte := check_read_byte s (off := BitVec.ofNat 8 (0x80 + (4 * i + j)))
    (by rw [region_digestOffset hk]; rfl) 0#32
  rw [Nat.add_assoc, transact_read_idle hidle hbyte, readReg_digest_byte s hk, byteAt_digest s.h hi hj, byteOf,
    show 8 * (4 - 1 - j) = 24 - 8 * j by omega]

/-- Lane m of a big-endian word against the byte as a read of size 1 returns it. -/
theorem lane_be32 {n : Nat} (b : Vector Byte n) (k : Nat) {m : Nat} (hm : m < 4) :
    (be32 b k).extractLsb' (24 - 8 * m) 8 = ((byteAt b (k + m)).setWidth 32).extractLsb' 0 8 := by
  rw [BitVec.extractLsb'_setWidth_of_le (by omega), BitVec.extractLsb'_eq_self, ← byteOf_be32 b k hm, byteOf,
    show 8 * (4 - 1 - m) = 24 - 8 * m by omega]

/-- Settles O40: both views read one byte sequence, BUF or the digest. -/
theorem wordViewsAgreeWithByteViews : Obligations.WordViewsAgreeWithByteViews := by
  intro s m hm
  constructor
  · intro j hj
    rw [readReg_buf_word s (by omega), readReg_buf_byte s (by omega), lane_be32 s.buf (4 * j) hm]
  · intro i hi
    rw [Nat.add_assoc, readReg_digest_word s (by omega), readReg_digest_byte s (by omega),
      lane_be32 (digest s.h) (4 * i) hm]

/-- Settles O34: each half is read by its own offset, and a write joins the new half to the old one. -/
theorem totalHalvesAccess : Obligations.TotalHalvesAccess := by
  intro s hidle
  have hlo := check_read_word s (off := 0x48#8) (by decide) (by decide) 0#32
  have hhi := check_read_word s (off := 0x4C#8) (by decide) (by decide) 0#32
  exact ⟨transact_read_idle hidle hlo, transact_read_idle hidle hhi,
    transact_write_idle hidle hlo (by decide), transact_write_idle hidle hhi (by decide)⟩

end Sys2Proof.Machine
end

section
/-! SUPPORT. STATUS, CMD and ID, exact at any time (20_memory.md R58 to R60). -/

namespace Sys2Proof.Machine

/-- STATUS below ECODE, bit by bit: BUSY, DONE, ERR and a reserved 0 (10_state.md R24). -/
theorem Status.getLsbD_word_low (st : Status) :
    st.word.getLsbD 0 = st.busy ∧ st.word.getLsbD 1 = st.done ∧ st.word.getLsbD 2 = st.err ∧
    st.word.getLsbD 3 = false := by
  simp only [Status.word, BitVec.getLsbD_setWidth, BitVec.getLsbD_append]
  simp

/-- From bit 4 on STATUS is ECODE, which has no bit above its four. -/
theorem Status.getLsbD_word_ecode (st : Status) (k : Nat) : st.word.getLsbD (4 + k) = st.ecodeBits.getLsbD k := by
  simp only [Status.word, BitVec.getLsbD_setWidth, BitVec.getLsbD_append]
  have hfits : st.ecodeBits.getLsbD k = true → 4 + k < 32 := fun h => by
    have := BitVec.lt_of_getLsbD h
    omega
  simpa using hfits

/-- A read of STATUS. -/
theorem transact_read_status (s : State) :
    transact (.read 0x44#8 4) s = .next (reply s.status.word s) :=
  transact_read_exact (check_read_word s (by decide) (by decide) 0#32) (by decide)

theorem Status.word_ecode (st : Status) : st.word.extractLsb' 4 4 = st.ecodeBits := by
  ext i hi
  rw [BitVec.getElem_extractLsb', Status.getLsbD_word_ecode, BitVec.getLsbD_eq_getElem hi]

theorem Status.word_reserved (st : Status) : st.word.extractLsb' 8 24 = 0 := by
  ext i hi
  rw [BitVec.getElem_extractLsb', show 8 + i = 4 + (4 + i) by omega, Status.getLsbD_word_ecode,
    BitVec.getLsbD_of_ge _ _ (by omega)]
  simp

/-- Settles O35: the value is STATUS's word, whose bits are known one by one. -/
theorem statusReadsExactlyAtAnyTime : Obligations.StatusReadsExactlyAtAnyTime := by
  intro s
  obtain ⟨hbusy, hdone, herr, hzero⟩ := s.status.getLsbD_word_low
  refine ⟨s.status.word, transact_read_status s, hbusy, hdone, herr, hzero, ?_, s.status.word_reserved⟩
  rw [Status.word_ecode, Status.ecodeBits]
  cases s.status.ecode with
  | none => rfl
  | some c => cases c <;> rfl

/-- Settles O36: neither register is among those a busy block leaves unspecified. -/
theorem cmdAndIdReadExactlyAtAnyTime : Obligations.CmdAndIdReadExactlyAtAnyTime := fun s =>
  ⟨transact_read_exact (check_read_word s (by decide) (by decide) 0#32) (by decide),
    transact_read_exact (check_read_word s (by decide) (by decide) 0#32) (by decide)⟩

end Sys2Proof.Machine
end

section
/-! SUPPORT. What a read or a refused transaction leaves of the block, idle or busy (20_memory.md R62, R63, R66). -/

namespace Sys2Proof.Machine

/-- Settles O29: the error record is the only part of the block that moves; a read also notes its 0. -/
theorem refusedTransactionOnlyRecordsItsError : Obligations.RefusedTransactionOnlyRecordsItsError := by
  intro s off size c
  constructor
  · intro hcheck
    exact ⟨_, transact_read_refused hcheck, rfl, rfl, rfl, rfl, rfl, rfl, rfl, rfl, rfl⟩
  · intro v hcheck
    exact ⟨_, transact_write_refused hcheck, rfl, rfl, rfl, rfl, rfl, rfl, rfl, rfl, rfl⟩

/-- The free value of a byte read is a byte (20_memory.md R62). -/
theorem unspecified_byte_le (n : Nat) : (unspecified 1 n).toNat ≤ 255 := by
  have hbyte := ((Config.unspec n).extractLsb' 0 8).isLt
  simp only [unspecified, if_true, BitVec.toNat_setWidth]
  omega

/-- Settles O38: a data register is drawn, the others are read. -/
theorem busyDataReadIsAFreeDraw : Obligations.BusyDataReadIsAFreeDraw := by
  intro s off size hbusy hcheck
  constructor
  · intro hregion
    have hdata : (region off).unspecifiedWhileBusy = true := by
      rcases hregion with h | h | h | h | h <;> rw [h] <;> rfl
    refine ⟨_, _, transact_read_draw hbusy hcheck hdata, rfl, ?_, ?_, rfl, rfl, rfl, rfl, rfl, rfl, rfl, rfl⟩
    · rintro rfl
      rfl
    · rintro rfl
      exact ⟨rfl, unspecified_byte_le s.draws⟩
  · intro hregion
    have hexact : (region off).unspecifiedWhileBusy = false := by
      rcases hregion with h | h | h <;> rw [h] <;> rfl
    exact transact_read_exact hcheck hexact

/-- Settles O39: the read answers with the register, or with a free value and the draw counter moved on; the block stands in neither. -/
theorem successfulReadsHaveNoSideEffect : Obligations.SuccessfulReadsHaveNoSideEffect := by
  intro s off size hcheck
  rcases busRead_cases off size s with ⟨c, herror, _⟩ | ⟨_, hbusy, hdata, _⟩ | ⟨_, _, hread⟩
  · simp [hcheck] at herror
  · exact ⟨_, _, transact_read_draw hbusy hcheck hdata, ⟨rfl, rfl, rfl, rfl, rfl, rfl⟩, rfl, rfl⟩
  · exact ⟨reply (readReg s off size) s, _, by rw [transact, hread], ⟨rfl, rfl, rfl, rfl, rfl, rfl⟩, rfl, rfl⟩

end Sys2Proof.Machine
end

section
/-! SUPPORT. The step by the first event of the agenda, and the command it carries (20_memory.md R53, R59, R70). -/

namespace Sys2Proof.Machine

/-- Settles O7: the head of the agenda decides who acts. -/
theorem stepTakesTheFirstEvent : Obligations.StepTakesTheFirstEvent := fun _ _ =>
  ⟨fun _ hbus => step_cons hbus, fun hengine => step_cons hengine, fun hreset => step_cons hreset, step_nil⟩

/-- Settles O8: the step is the CMD write, and that write is the command. -/
theorem stepRunsTheDecodedCommand : Obligations.StepRunsTheDecodedCommand := by
  intro s rest v i hagenda hdecode
  exact (step_cons hagenda).trans (transact_command hdecode (s.setAgenda rest))

/-- A table word that names a command is, cut to its 32 bits, a word that decodes to it. -/
theorem decode_of_decodeTableWord {w : Nat} {i : Instr} (h : decodeTableWord 32 w = some i) :
    decode (BitVec.ofNat 32 (tableBits 32 w)) = .ok i := by
  unfold decodeTableWord at h
  split at h
  · cases hdecode : decode (BitVec.ofNat 32 (tableBits 32 w)) with
    | ok j =>
      rw [hdecode] at h
      cases h
      rfl
    | error r =>
      rw [hdecode] at h
      cases h
  · cases h

/-- Settles O9: the placed write stands first, and taking it gives back the agenda from before the placing. -/
theorem placedWordRunsAsTheNextStep : Obligations.PlacedWordRunsAsTheNextStep := by
  intro s w i htable
  have hstep := stepRunsTheDecodedCommand (s.withFetchWord 32 w) s.agenda _ i rfl (decode_of_decodeTableWord htable)
  rwa [show (s.withFetchWord 32 w).setAgenda s.agenda = s from rfl] at hstep

end Sys2Proof.Machine
end

section
/-! SUPPORT. The command word by its fields (30_encoding.md R81): a word is an instruction's encoding exactly when it carries the instruction's fields. -/

namespace Sys2Proof

/-- The OP an instruction is encoded with (30_encoding.md R82). -/
def Instr.op : Instr → BitVec 4
  | .nop => 0x0
  | .init => 0x1
  | .block => 0x2
  | .final _ => 0x3
  | .clrerr => 0x4

/-- The NBYTES an instruction is encoded with (30_encoding.md R83): 0 but on FINAL. -/
def Instr.nbytes : Instr → BitVec 7
  | .final n => n
  | .nop | .init | .block | .clrerr => 0

/-- The four fields of `v` are those of `i`'s command word (30_encoding.md R81, R82). -/
structure CarriesFields (v : Word) (i : Instr) : Prop where
  rsv1 : cmdRsv1 v = 0
  rsv0 : cmdRsv0 v = 0
  op : cmdOp v = i.op
  nbytes : cmdNbytes v = i.nbytes

theorem toNat_cmdOp (v : Word) : (cmdOp v).toNat = v.toNat % 16 := by
  simp [cmdOp, BitVec.extractLsb'_toNat]

theorem toNat_cmdRsv0 (v : Word) : (cmdRsv0 v).toNat = v.toNat / 16 % 16 := by
  simp [cmdRsv0, BitVec.extractLsb'_toNat, Nat.shiftRight_eq_div_pow]

theorem toNat_cmdNbytes (v : Word) : (cmdNbytes v).toNat = v.toNat / 256 % 128 := by
  simp [cmdNbytes, BitVec.extractLsb'_toNat, Nat.shiftRight_eq_div_pow]

theorem toNat_cmdRsv1 (v : Word) : (cmdRsv1 v).toNat = v.toNat / 32768 := by
  have hfits : v.toNat / 32768 < 131072 := by omega
  simp [cmdRsv1, BitVec.extractLsb'_toNat, Nat.shiftRight_eq_div_pow, Nat.mod_eq_of_lt hfits]

/-- The fields as a number: OP in the low byte, NBYTES from bit 8 on, nothing else. -/
theorem carriesFields_iff_toNat (v : Word) (i : Instr) :
    CarriesFields v i ↔ v.toNat = i.op.toNat + 256 * i.nbytes.toNat := by
  have hop := toNat_cmdOp v
  have hrsv0 := toNat_cmdRsv0 v
  have hnbytes := toNat_cmdNbytes v
  have hrsv1 := toNat_cmdRsv1 v
  constructor
  · rintro ⟨hv1, hv0, hvop, hvnbytes⟩
    bv_omega
  · intro hv
    constructor <;> bv_omega

/-- FINAL's word joins OP and NBYTES by a bitwise or of disjoint parts, so it is their sum. -/
theorem toNat_encode (i : Instr) : (encode i).toNat = i.op.toNat + 256 * i.nbytes.toNat := by
  cases i with
  | nop | init | block | clrerr => rfl
  | final n =>
    have hshift : (n.setWidth 32 <<< 8).toNat = n.toNat <<< 8 := by
      rw [BitVec.toNat_shiftLeft, BitVec.toNat_setWidth_of_le (by decide), Nat.shiftLeft_eq, Nat.mod_eq_of_lt (by omega)]
    have hsum : n.toNat <<< 8 + 3 = n.toNat <<< 8 ||| 3 := Nat.shiftLeft_add_eq_or_of_lt (by decide) _
    calc (encode (.final n)).toNat = 3 ||| n.toNat <<< 8 := by rw [encode, BitVec.toNat_or, hshift]; rfl
      _ = 3 + 256 * n.toNat := by rw [Nat.or_comm, ← hsum, Nat.shiftLeft_eq]; omega

/-- A word carries the fields of the one instruction it encodes. -/
theorem carriesFields_iff_eq_encode (v : Word) (i : Instr) : CarriesFields v i ↔ v = encode i := by
  rw [carriesFields_iff_toNat, ← toNat_encode, BitVec.toNat_inj]

theorem carriesFields_encode (i : Instr) : CarriesFields (encode i) i :=
  (carriesFields_iff_eq_encode _ i).mpr rfl

end Sys2Proof
end

section
/-! SUPPORT. LegalCmd, the decoder and the encoder against each other (30_encoding.md R82, R84, R90): the legal words are the encodings of the well-formed commands, and those decode. -/

namespace Sys2Proof

/-- LegalCmd's conjuncts (30_encoding.md R84), FINAL's and the other commands' NBYTES apart. -/
theorem legalCmd_iff (v : Word) :
    legalCmd v = true ↔
      cmdRsv1 v = 0 ∧ cmdRsv0 v = 0 ∧ (cmdOp v).toNat ≤ 4 ∧
      (cmdOp v = 3 → (cmdNbytes v).toNat ≤ 64) ∧ (cmdOp v ≠ 3 → cmdNbytes v = 0) := by
  simp only [legalCmd, Bool.and_eq_true, Bool.or_eq_true, Bool.not_eq_true', beq_iff_eq, beq_eq_false_iff_ne,
    decide_eq_true_eq, ← imp_iff_not_or, and_assoc]
  tauto

/-- The decoder finds OP, and then NBYTES 0 or, on FINAL, in its range. -/
theorem decode_of_carriesFields {v : Word} {i : Instr} (hv : CarriesFields v i) (hi : i.wellFormed = true) :
    decode v = .ok i := by
  obtain ⟨hrsv1, hrsv0, hop, hnbytes⟩ := hv
  cases i with
  | nop | init | block | clrerr => simp [decode, decodePlain, hrsv1, hrsv0, hop, hnbytes, Instr.op, Instr.nbytes]
  | final n =>
    have hn : n.toNat ≤ 64 := by simpa [Instr.wellFormed] using hi
    simp [decode, hrsv1, hrsv0, hop, hnbytes, Instr.op, Instr.nbytes, hn]

/-- Settles O1: the encoding carries the command's own fields, and the decoder reads those. -/
theorem decodeOfEncode : Obligations.DecodeOfEncode := fun i hi =>
  decode_of_carriesFields (carriesFields_encode i) hi

/-- A legal word's OP and NBYTES are those of a well-formed command: FINAL of its NBYTES, or the command OP names. -/
theorem exists_carriesFields_of_legalCmd {v : Word} (hv : legalCmd v = true) :
    ∃ i : Instr, i.wellFormed = true ∧ CarriesFields v i := by
  obtain ⟨hrsv1, hrsv0, hop, hfinal, hplain⟩ := (legalCmd_iff v).mp hv
  by_cases h3 : cmdOp v = 3
  · exact ⟨.final (cmdNbytes v), by simpa [Instr.wellFormed] using hfinal h3, hrsv1, hrsv0, h3, rfl⟩
  · have hops : cmdOp v = 0 ∨ cmdOp v = 1 ∨ cmdOp v = 2 ∨ cmdOp v = 4 := by bv_omega
    rcases hops with h | h | h | h
    · exact ⟨.nop, rfl, hrsv1, hrsv0, h, hplain h3⟩
    · exact ⟨.init, rfl, hrsv1, hrsv0, h, hplain h3⟩
    · exact ⟨.block, rfl, hrsv1, hrsv0, h, hplain h3⟩
    · exact ⟨.clrerr, rfl, hrsv1, hrsv0, h, hplain h3⟩

/-- A word decodes to a command exactly when it is that command's encoding and the command is well formed. -/
theorem decode_eq_ok_iff (v : Word) (i : Instr) : decode v = .ok i ↔ i.wellFormed = true ∧ encode i = v := by
  constructor
  · intro hdecode
    obtain ⟨j, hj, hv⟩ := exists_carriesFields_of_legalCmd (Machine.legalCmd_of_decode hdecode)
    cases hdecode.symm.trans (decode_of_carriesFields hv hj)
    exact ⟨hj, ((carriesFields_iff_eq_encode v i).mp hv).symm⟩
  · rintro ⟨hi, rfl⟩
    exact decodeOfEncode i hi

/-- Settles O2: a word that decodes is legal, a legal word encodes a well-formed command, and it decodes to no other. -/
theorem encodeOfDecode : Obligations.EncodeOfDecode := fun v i => (decode_eq_ok_iff v i).mp

/-- The legal words are those that decode (30_encoding.md R90). -/
theorem legalCmd_iff_exists_decode (v : Word) : legalCmd v = true ↔ ∃ i, decode v = .ok i := by
  constructor
  · intro hv
    obtain ⟨i, hi, hfields⟩ := exists_carriesFields_of_legalCmd hv
    exact ⟨i, decode_of_carriesFields hfields hi⟩
  · rintro ⟨i, hdecode⟩
    exact Machine.legalCmd_of_decode hdecode

/-- An illegal word decodes to no command (30_encoding.md R90). -/
theorem decode_error_of_illegal {v : Word} (hv : legalCmd v = false) : ∃ r, decode v = .error r := by
  cases hdecode : decode v with
  | error r => exact ⟨r, rfl⟩
  | ok i => simp [Machine.legalCmd_of_decode hdecode] at hv

/-- Settles O3: a legal word carries the fields of the command it decodes to, so OP names that command. -/
theorem decodeIsTotalByOp : Obligations.DecodeIsTotalByOp := by
  intro v
  refine ⟨decode_error_of_illegal, fun hv => ?_⟩
  obtain ⟨i, hi, hfields⟩ := exists_carriesFields_of_legalCmd hv
  rw [decode_of_carriesFields hfields hi, hfields.op, hfields.nbytes]
  cases i with
  | nop | init | block | clrerr => simp [Instr.op]
  | final n => simpa [Instr.op, Instr.nbytes, Instr.wellFormed] using hi

/-- A word that decodes is, as a number, its command's OP plus 256 times its NBYTES. -/
theorem decode_eq_ok_iff_toNat (v : Word) (i : Instr) :
    decode v = .ok i ↔ i.wellFormed = true ∧ v.toNat = i.op.toNat + 256 * i.nbytes.toNat := by
  rw [decode_eq_ok_iff, ← toNat_encode, BitVec.toNat_inj, eq_comm (a := v)]

/-- Settles O4: the legal words are those that decode, and each command's words are known as numbers. -/
theorem legalWordsAreTheOpcodeMap : Obligations.LegalWordsAreTheOpcodeMap := by
  intro v
  simp only [legalCmd_iff_exists_decode, decode_eq_ok_iff_toNat]
  constructor
  · rintro ⟨i, hi, hv⟩
    cases i with
    | nop => exact .inl hv
    | init => exact .inr (.inl hv)
    | block => exact .inr (.inr (.inl hv))
    | clrerr => exact .inr (.inr (.inr (.inl hv)))
    | final n => exact .inr (.inr (.inr (.inr ⟨n.toNat, by simpa [Instr.wellFormed] using hi, hv⟩)))
  · rintro (hv | hv | hv | hv | ⟨n, hn, hv⟩)
    · exact ⟨.nop, rfl, hv⟩
    · exact ⟨.init, rfl, hv⟩
    · exact ⟨.block, rfl, hv⟩
    · exact ⟨.clrerr, rfl, hv⟩
    · have hfits : (BitVec.ofNat 7 n).toNat = n := by simp; omega
      refine ⟨.final (BitVec.ofNat 7 n), ?_, ?_⟩
      · simpa [Instr.wellFormed, hfits] using hn
      · rw [hv, Instr.nbytes, hfits]
        rfl

/-- Settles O5: the legal words are encodings, and the illegal ones fail LegalCmd. -/
theorem specWordsDecode : Obligations.SpecWordsDecode :=
  ⟨decodeOfEncode .nop rfl, decodeOfEncode .init rfl, decodeOfEncode .block rfl,
    decodeOfEncode (.final 0) rfl, decodeOfEncode (.final 3) rfl, decodeOfEncode (.final 55) rfl,
    decodeOfEncode (.final 56) rfl, decodeOfEncode (.final 63) rfl, decodeOfEncode (.final 64) rfl,
    decodeOfEncode .clrerr rfl,
    decode_error_of_illegal rfl, decode_error_of_illegal rfl, decode_error_of_illegal rfl,
    decode_error_of_illegal rfl, decode_error_of_illegal rfl⟩

end Sys2Proof
end

section
/-! SUPPORT. The refusal of an illegal command word (30_encoding.md R85). -/

namespace Sys2Proof.Machine

/-- R85's three cases: a reserved OP, a reserved bit, and an NBYTES out of its command's range. -/
theorem legalCmd_eq_false_iff (v : Word) :
    legalCmd v = false ↔
      5 ≤ (cmdOp v).toNat ∨ (cmdRsv0 v ≠ 0 ∨ cmdRsv1 v ≠ 0) ∨
        ((cmdOp v ≠ 0x3 ∧ cmdNbytes v ≠ 0) ∨ (cmdOp v = 0x3 ∧ 65 ≤ (cmdNbytes v).toNat)) := by
  have hop : 5 ≤ (cmdOp v).toNat ↔ ¬ (cmdOp v).toNat ≤ 4 := by omega
  have hnbytes : 65 ≤ (cmdNbytes v).toNat ↔ ¬ (cmdNbytes v).toNat ≤ 64 := by omega
  rw [← Bool.not_eq_true, legalCmd_iff, hop, hnbytes]
  tauto

/-- An illegal CMD write to an idle block reaches the check's last line (60_exceptions.md R194). -/
theorem check_write_illegal {s : State} {v : Word} (hv : legalCmd v = false) (hidle : s.status.busy = false) :
    check s 0x40#8 4 .write v = some .illegalCmd := by
  have hregion : region 0x40#8 = .cmd := rfl
  simp [check, hregion, hidle, hv, Region.readOnly]

/-- Settles O6: the check refuses the write with ILLEGAL_CMD, and a refused write records its error and does no more. -/
theorem illegalCommandIsRefused : Obligations.IllegalCommandIsRefused :=
  ⟨legalCmd_eq_false_iff, fun _ _ hv hidle =>
    ⟨_, transact_write_refused (check_write_illegal hv hidle), rfl, rfl, rfl, rfl, rfl, rfl, rfl, rfl, rfl⟩⟩

end Sys2Proof.Machine
end

section
/-! SUPPORT. The mixing functions bit by bit (40_mixing.md R103 to R110). -/

namespace Sys2Proof.Machine

/-- The model's rotation is the library's. -/
theorem rotr_eq_rotateRight (x : Word) (n : Nat) : rotr x n = x.rotateRight n := rfl

/-- The bit form of the rotation, for every amount (40_mixing.md R103). -/
theorem getLsbD_rotr (x : Word) (n : Nat) {i : Nat} (hi : i < 32) :
    (rotr x n).getLsbD i = x.getLsbD ((i + n) % 32) := by
  rw [rotr_eq_rotateRight, BitVec.getLsbD_rotateRight]
  by_cases hstays : i < 32 - n % 32
  · have hsource : n % 32 + i = (i + n) % 32 := by omega
    simp [hstays, hsource]
  · have hsource : i - (32 - n % 32) = (i + n) % 32 := by omega
    simp [hstays, hi, hsource]

/-- The two shifts of the rotation as numbers (40_mixing.md R103). -/
theorem toNat_rotr (x : Word) {n : Nat} (hn : n < 32) :
    (rotr x n).toNat = (x.toNat / 2 ^ n) ||| (x.toNat * 2 ^ (32 - n) % 2 ^ 32) := by
  rw [rotr, Nat.mod_eq_of_lt hn, BitVec.toNat_or, BitVec.toNat_ushiftRight, BitVec.toNat_shiftLeft,
    Nat.shiftRight_eq_div_pow, Nat.shiftLeft_eq]

/-- Rotating by whole turns moves no bit. -/
theorem rotr_of_dvd (x : Word) {n : Nat} (hn : 32 ∣ n) : rotr x n = x := by
  refine BitVec.eq_of_getLsbD_eq fun i hi => ?_
  have hsource : (i + n) % 32 = i := by omega
  rw [getLsbD_rotr x n hi, hsource]

/-- Settles O41: the bit form and the form by two shifts hold at every amount below 32, and 0 and 32 are whole turns. -/
theorem rotrMovesBits : Obligations.RotrMovesBits := fun x =>
  ⟨fun n _ hn => ⟨fun _ hi => getLsbD_rotr x n hi, toNat_rotr x (Nat.lt_succ_of_le hn)⟩,
    rotr_of_dvd x (by decide), rotr_of_dvd x (by decide)⟩

/-- Both operands' bits move alike, so the rotation is linear over exclusive or. -/
theorem rotr_xor (x y : Word) (n : Nat) : rotr (x ^^^ y) n = rotr x n ^^^ rotr y n := by
  refine BitVec.eq_of_getLsbD_eq fun i hi => ?_
  simp only [BitVec.getLsbD_xor, getLsbD_rotr _ n hi]

/-- The bits a right shift brings in are zeros (40_mixing.md R104, R105). -/
theorem getLsbD_shiftRight (x : Word) (n i : Nat) :
    (x >>> n).getLsbD i = (decide (i + n < 32) && x.getLsbD (i + n)) := by
  rw [BitVec.getLsbD_ushiftRight, Nat.add_comm n i]
  by_cases hsource : i + n < 32
  · simp [hsource]
  · simp [hsource, BitVec.getLsbD_of_ge x (i + n) (by omega)]

theorem smallSigma0_xor (x y : Word) : smallSigma0 (x ^^^ y) = smallSigma0 x ^^^ smallSigma0 y := by
  simp only [smallSigma0, rotr_xor, BitVec.ushiftRight_xor_distrib]
  ac_rfl

theorem smallSigma1_xor (x y : Word) : smallSigma1 (x ^^^ y) = smallSigma1 x ^^^ smallSigma1 y := by
  simp only [smallSigma1, rotr_xor, BitVec.ushiftRight_xor_distrib]
  ac_rfl

/-- Settles O42: each sigma is an exclusive or of two rotations and a shift, whose bits are known and which are linear. -/
theorem smallSigmasBitwiseAndLinear : Obligations.SmallSigmasBitwiseAndLinear := by
  refine ⟨fun x i hi => ⟨?_, ?_⟩, fun x y => ⟨smallSigma0_xor x y, smallSigma1_xor x y⟩⟩
  · simp only [smallSigma0, BitVec.getLsbD_xor, getLsbD_rotr x _ hi, getLsbD_shiftRight]
  · simp only [smallSigma1, BitVec.getLsbD_xor, getLsbD_rotr x _ hi, getLsbD_shiftRight]

/-- Settles O43: each sigma is an exclusive or of three rotations, whose bits are known. -/
theorem bigSigmasBitwise : Obligations.BigSigmasBitwise := by
  refine fun x i hi => ⟨?_, ?_⟩
  · simp only [bigSigma0, BitVec.getLsbD_xor, getLsbD_rotr x _ hi]
  · simp only [bigSigma1, BitVec.getLsbD_xor, getLsbD_rotr x _ hi]

/-- Ch's bit is y's where x's bit is 1, and z's where it is 0 (40_mixing.md R110). -/
theorem getLsbD_ch (x y z : Word) {i : Nat} (hi : i < 32) :
    (ch x y z).getLsbD i = if x.getLsbD i = true then y.getLsbD i else z.getLsbD i := by
  simp only [ch, BitVec.getLsbD_xor, BitVec.getLsbD_and, BitVec.getLsbD_not, hi, decide_true, Bool.true_and]
  cases x.getLsbD i <;> simp

/-- The exclusive or of the three pairwise products is the majority of three bits. -/
theorem xor_and_pairs_iff (a b c : Bool) :
    (((a && b) ^^ (a && c)) ^^ (b && c)) = true ↔ 2 ≤ a.toNat + b.toNat + c.toNat := by
  revert a b c
  decide

/-- Maj's bit is the majority of the operands' bits, at every position (40_mixing.md R110). -/
theorem getLsbD_maj (x y z : Word) (i : Nat) :
    (maj x y z).getLsbD i = true ↔
      2 ≤ (x.getLsbD i).toNat + (y.getLsbD i).toNat + (z.getLsbD i).toNat := by
  simp only [maj, BitVec.getLsbD_xor, BitVec.getLsbD_and]
  exact xor_and_pairs_iff _ _ _

/-- Settles O44: Ch's bit is a choice by x's bit, and Maj's the majority of three bits. -/
theorem chChoosesAndMajVotes : Obligations.ChChoosesAndMajVotes := fun x y z i hi =>
  ⟨getLsbD_ch x y z hi, getLsbD_maj x y z i⟩

end Sys2Proof.Machine
end

section
/-! SUPPORT. The big-endian conversions (41_byte_order.md R120 to R124): each byte of a serialized value by its index, and a word as the sum of its bytes. -/

namespace Sys2Proof.Machine

/-- One more byte at the low end: the value before it moves up by 256. -/
theorem toNat_append_byte {w : Nat} (v : BitVec w) (x : Byte) : (v ++ x).toNat = v.toNat * 2 ^ 8 + x.toNat := by
  rw [BitVec.toNat_append, ← Nat.shiftLeft_add_eq_or_of_lt x.isLt, Nat.shiftLeft_eq]

/-- A word read big-endian is the sum of its bytes, the lowest offset the most significant (41_byte_order.md R120). -/
theorem toNat_be32 {n : Nat} (b : Vector Byte n) (k : Nat) :
    (be32 b k).toNat = (byteAt b k).toNat * 2 ^ 24 + (byteAt b (k + 1)).toNat * 2 ^ 16 +
      (byteAt b (k + 2)).toNat * 2 ^ 8 + (byteAt b (k + 3)).toNat := by
  simp only [be32, toNat_append_byte]
  omega

/-- Byte j of Ser32 is byte j of the word (41_byte_order.md R123). -/
theorem byteAt_ser32 (w : Word) {j : Nat} (hj : j < 4) : byteAt (ser32 w) j = byteOf w 4 j :=
  byteAt_ofFn _ hj

/-- Byte j of BE64 is byte j of the length (41_byte_order.md R122). -/
theorem byteAt_be64 (l : BitVec 64) {j : Nat} (hj : j < 8) : byteAt (be64 l) j = byteOf l 8 j :=
  byteAt_ofFn _ hj

/-- The bits of byte j, counted down from the top of an n-byte value. -/
theorem byteOf_eq_extractLsb' {w : Nat} (v : BitVec w) {n j : Nat} :
    byteOf v n j = v.extractLsb' (8 * (n - 1) - 8 * j) 8 := by
  rw [byteOf, Nat.mul_sub]

/-- Reading back the four bytes of a word gives the word (41_byte_order.md R123). -/
theorem be32_ser32 (w : Word) : be32 (ser32 w) 0 = w :=
  be32_eq_of_bytes fun m hm => by rw [Nat.zero_add, byteAt_ser32 w hm]

/-- Serializing the word read from four bytes gives the bytes (41_byte_order.md R123). -/
theorem ser32_be32 (b : Vector Byte 4) : ser32 (be32 b 0) = b := by
  refine Vector.ext fun j hj => ?_
  rw [← byteAt_of_lt _ hj, ← byteAt_of_lt _ hj, byteAt_ser32 _ hj, byteOf_be32 b 0 hj, Nat.zero_add]

/-- Settles O45: each byte joined on shifts the sum, and the two conversions agree byte by byte. -/
theorem bigEndianConversionsAreInverse : Obligations.BigEndianConversionsAreInverse :=
  ⟨fun _ k b _ => toNat_be32 b k, fun w => ⟨rfl, be32_ser32 w⟩, ser32_be32⟩

/-- Settles O46: every byte of BE64, of Ser32 and of the digest is a byte of the value, the most significant first. -/
theorem lengthAndDigestSerialization : Obligations.LengthAndDigestSerialization := by
  refine ⟨fun l j hj => ?_, fun h i j hi hj => ⟨?_, ?_⟩⟩
  · rw [byteAt_be64 l hj, byteOf_eq_extractLsb']
  · rw [byteAt_digest h hi hj, byteAt_ser32 _ hj]
  · rw [byteAt_digest h hi hj, byteOf_eq_extractLsb']

end Sys2Proof.Machine
end

section
/-! SUPPORT. BLOCK's issue and completion (42_compression.md R138, R139). -/

namespace Sys2Proof.Machine

/-- A legal word whose OP is BLOCK's is BLOCK's encoding: no other bit may be set (30_encoding.md R81, R82). -/
theorem eq_encode_block_of_legalCmd {v : Word} (hop : cmdOp v = 0x2) (hv : legalCmd v = true) :
    v = encode .block := by
  obtain ⟨i, _, hfields⟩ := exists_carriesFields_of_legalCmd hv
  have hi : i.op = 0x2 := hfields.op.symm.trans hop
  cases i with
  | block => exact (carriesFields_iff_eq_encode v .block).mp hfields
  | nop | init | final n | clrerr => simp [Instr.op] at hi

/-- Settles O18: an idle block issues BLOCKOP and a busy one drops the command; BLOCK's OP in any other word fails LegalCmd. -/
theorem blockIssueStartsTheOperation : Obligations.BlockIssueStartsTheOperation := by
  refine ⟨rfl, fun s hidle => ?_, fun s hbusy => whenIdle_busy hbusy, fun s v hop hv hidle => ?_⟩
  · exact ⟨issue .blockOp s, whenIdle_idle hidle, rfl, rfl, rfl, rfl, rfl, rfl, rfl, rfl, rfl, rfl, rfl, rfl⟩
  · have hillegal : legalCmd v = false :=
      Bool.eq_false_iff.mpr fun hlegal => hv (eq_encode_block_of_legalCmd hop hlegal)
    exact transact_write_refused (check_write_illegal hillegal hidle)

/-- The engine's turn with BLOCKOP pending, by the pure function Compress (42_compression.md R139). -/
theorem engineStep_of_pend_blockOp {s : State} (hp : s.pend = .blockOp) :
    engineStep s = retireBlock ((s.setH (compress s.h s.buf)).setScratch Scratch.dead) := by
  simp only [engineStep, hp, completeBlock]
  rw [scratchRunIsCompress s.buf s]

/-- Settles O22: the engine's event is BLOCK's completion, which is Compress into H and then the retirement, field by field. -/
theorem engineCompletesBlock : Obligations.EngineCompletesBlock := by
  intro s rest hagenda hp
  have hengine := engineStep_of_pend_blockOp (s := s.setAgenda rest) hp
  refine ⟨_, (step_cons hagenda).trans (congrArg Host.Outcome.next hengine), ?_⟩
  have htotal : (s.total + 64#64).toNat = (s.total.toNat + 64) % 2 ^ 64 := BitVec.toNat_add s.total 64#64
  exact ⟨rfl, htotal, rfl, rfl, rfl, rfl, rfl, rfl, rfl, rfl, rfl, rfl⟩

end Sys2Proof.Machine
end

section
/-! SUPPORT. The message schedule as an array and as a sliding window of 16 words (42_compression.md R131, R132). -/

namespace Sys2Proof.Machine

theorem AgreeBelow.mono {j k : Nat} {u v : Vector Word 64} (h : AgreeBelow k u v) (hjk : j ≤ k) :
    AgreeBelow j u v :=
  fun i hi => h i (Nat.lt_of_lt_of_le hi hjk)

/-- Computing one more word leaves the words before it. -/
theorem agreeBelow_extendSchedule_succ (w : Vector Word 64) {n : Nat} (hn : n < 48) :
    AgreeBelow (16 + n) (extendSchedule w (n + 1)) (extendSchedule w n) := by
  intro j hj
  rw [extendSchedule, wordAt_set _ _ _ _ (by omega), if_neg (by omega)]

/-- Every computed word obeys the recurrence on the array as it ends up: what it was computed from is never written again (42_compression.md R132). -/
theorem wordAt_extendSchedule_of_ge (w : Vector Word 64) {t : Nat} (ht : 16 ≤ t) :
    ∀ n, n ≤ 48 → t < 16 + n → wordAt (extendSchedule w n) t = nextScheduleWord (extendSchedule w n) t
  | 0, _, htn => absurd htn (by omega)
  | n + 1, hn, htn => by
    have hagree := agreeBelow_extendSchedule_succ w (n := n) (by omega)
    have hnext : nextScheduleWord (extendSchedule w (n + 1)) t = nextScheduleWord (extendSchedule w n) t :=
      (hagree.mono (by omega)).nextScheduleWord_eq ht
    rw [hnext]
    by_cases hlast : t = 16 + n
    · rw [extendSchedule, wordAt_set _ _ _ _ (by omega), if_pos hlast, hlast]
    · rw [hagree t (by omega), wordAt_extendSchedule_of_ge w ht n (by omega) (by omega)]

/-- The schedule words from 16 on obey the recurrence (42_compression.md R132). -/
theorem wordAt_schedule_of_ge (b : Vector Byte 64) (w : Vector Word 64) {t : Nat} (h16 : 16 ≤ t) (h64 : t < 64) :
    wordAt (schedule b w) t = nextScheduleWord (schedule b w) t :=
  wordAt_extendSchedule_of_ge (loadSchedule b w 16) h16 48 (Nat.le_refl 48) h64

/-- Settles O47: the words of the block, then the recurrence. -/
theorem scheduleRecurrence : Obligations.ScheduleRecurrence := fun b w0 =>
  ⟨fun _ ht => wordAt_schedule_of_lt b w0 ht, fun _ h16 h64 => wordAt_schedule_of_ge b w0 h16 h64⟩

/-- A slide moves the fifteen younger words down by one. -/
theorem wordAt_slideWindow_of_lt (x : Vector Word 16) {j : Nat} (hj : j < 15) :
    wordAt (slideWindow x) j = wordAt x (j + 1) := by
  rw [slideWindow, wordAt_ofFn _ (by omega), if_pos hj]

/-- A slide brings in the recurrence's word, read at the window's own places. -/
theorem wordAt_slideWindow_last (x : Vector Word 16) :
    wordAt (slideWindow x) 15 =
      smallSigma1 (wordAt x 14) + wordAt x 9 + smallSigma0 (wordAt x 1) + wordAt x 0 := by
  rw [slideWindow, wordAt_ofFn _ (by omega), if_neg (by decide)]

/-- The window holds `w[k..k+15]`. -/
def WindowAt (w : Vector Word 64) (k : Nat) (x : Vector Word 16) : Prop :=
  ∀ j, j < 16 → wordAt x j = wordAt w (k + j)

/-- A slide moves the window on by one word, where that word obeys the recurrence. -/
theorem WindowAt.slide {w : Vector Word 64} {k : Nat} {x : Vector Word 16} (hx : WindowAt w k x)
    (hw : wordAt w (k + 16) = nextScheduleWord w (k + 16)) : WindowAt w (k + 1) (slideWindow x) := by
  intro j hj
  by_cases hlast : j = 15
  · subst hlast
    rw [wordAt_slideWindow_last, hx 14 (by omega), hx 9 (by omega), hx 1 (by omega), hx 0 (by omega),
      Nat.add_assoc k 1 15, hw]
    rfl
  · rw [wordAt_slideWindow_of_lt x (by omega), hx (j + 1) (by omega), Nat.add_right_comm, Nat.add_assoc k j 1]

/-- The block's words are the window before the first slide (42_compression.md R131). -/
theorem windowAt_blockWords (b : Vector Byte 64) (w : Vector Word 64) :
    WindowAt (schedule b w) 0 (blockWords b) := by
  intro j hj
  rw [Nat.zero_add, wordAt_schedule_of_lt b w hj, blockWords, wordAt_ofFn _ hj]

/-- After k slides the window stands at word k of the schedule (42_compression.md R132). -/
theorem windowAt_iterate_slideWindow (b : Vector Byte 64) (w : Vector Word 64) {k : Nat} (hk : k ≤ 48) :
    WindowAt (schedule b w) k (slideWindow^[k] (blockWords b)) := by
  induction k with
  | zero => exact windowAt_blockWords b w
  | succ k ih =>
    rw [Function.iterate_succ_apply']
    exact (ih (by omega)).slide (wordAt_schedule_of_ge b w (by omega) (by omega))

/-- Settles O48, by induction on the slides. -/
theorem slidingWindowComputesTheSchedule : Obligations.SlidingWindowComputesTheSchedule :=
  fun b w0 _ j hk hj => windowAt_iterate_slideWindow b w0 hk j hj

end Sys2Proof.Machine
end

section
/-! SUPPORT. One round in the scratch, and the final additions of Compress (42_compression.md R133 to R137). -/

namespace Sys2Proof.Machine

/-- Settles O49: the variables are those of the round on plain values; the counter is a Fin 64. -/
theorem scratchRoundAssignsAtOnce : Obligations.ScratchRoundAssignsAtOnce := fun x =>
  ⟨rfl, rfl, Fin.val_add x.t 1⟩

/-- Compress over a schedule written into any array (42_compression.md R137). -/
theorem compress_eq (h : Vector Word 8) (b : Vector Byte 64) (w : Vector Word 64) :
    compress h b = addBack h (rounds (schedule b w) (Vars.ofState h) 64) := by
  rw [compress, schedule_eq b (Vector.replicate 64 0#32) w]

/-- The eight additions, each on its own word (42_compression.md R136). -/
theorem toList_addBack (h : Vector Word 8) (v : Vars) :
    (addBack h v).toList = [wordAt h 0 + v.a, wordAt h 1 + v.b, wordAt h 2 + v.c, wordAt h 3 + v.d,
      wordAt h 4 + v.e, wordAt h 5 + v.f, wordAt h 6 + v.g, wordAt h 7 + v.h] := rfl

/-- Settles O50: Compress is `addBack` of the variables after the rounds from H, over any array's schedule. -/
theorem compressAddsBack : Obligations.CompressAddsBack := by
  intro h b w0 v
  rw [compress_eq h b w0]
  exact toList_addBack h v

end Sys2Proof.Machine
end

section
/-! SUPPORT. FINAL's issue and its refusals (43_finalization.md R158). -/

namespace Sys2Proof.Machine

/-- FINAL's OP with a reserved bit or with n above 64 is no legal word (30_encoding.md R85). -/
theorem legalCmd_final_eq_false {v : Word} (hop : cmdOp v = 0x3)
    (hv : 64 < (cmdNbytes v).toNat ∨ cmdRsv0 v ≠ 0 ∨ cmdRsv1 v ≠ 0) : legalCmd v = false := by
  refine (legalCmd_eq_false_iff v).mpr (.inr ?_)
  rcases hv with hn | hreserved
  · exact .inr (.inr ⟨hop, hn⟩)
  · exact .inl hreserved

/-- Settles O19: an idle block issues FINALOP(n), or records ILLEGAL_CMD above 64; a busy one drops the command; the other words of FINAL's OP fail LegalCmd. -/
theorem finalIssueStartsTheOperation : Obligations.FinalIssueStartsTheOperation := by
  refine ⟨fun s n hn hidle => ⟨toNat_encode (.final n), ?_⟩, fun s n hbusy => whenIdle_busy hbusy,
    fun s n hn hidle => ?_, fun s v hop hv hidle => ?_⟩
  · have hexec : exec (.final n) s = .next (issue (.finalOp ⟨n.toNat, by omega⟩) s) :=
      (whenIdle_idle hidle).trans (congrArg Host.Outcome.next (issueFinal_of_le hn s))
    exact ⟨_, hexec, rfl, rfl, rfl, rfl, rfl, rfl, rfl, rfl, rfl, rfl, rfl, rfl⟩
  · exact (whenIdle_idle hidle).trans (congrArg Host.Outcome.next (issueFinal_of_gt hn s))
  · exact transact_write_refused (check_write_illegal (legalCmd_final_eq_false hop hv) hidle)

end Sys2Proof.Machine
end

section
/-! SUPPORT. The padded stream (43_finalization.md R151 to R153): TOTAL' and the bit length, the stream byte by byte, and its stretches of message, zeros and length. -/

namespace Sys2Proof.Machine

/-- TOTAL' counts the bytes modulo 2^64 (43_finalization.md R151). -/
theorem toNat_finalTotal (total : BitVec 64) (n : Nat) :
    (finalTotal total n).toNat = (total.toNat + n) % 2 ^ 64 := by
  rw [finalTotal, BitVec.toNat_add, BitVec.toNat_ofNat, Nat.add_mod_mod]

/-- The bit length is TOTAL' times 8 modulo 2^64 (43_finalization.md R151). -/
theorem toNat_bitLength (total' : BitVec 64) : (bitLength total').toNat = total'.toNat * 8 % 2 ^ 64 :=
  BitVec.toNat_mul total' 8#64

/-- As bits, the length is TOTAL' moved up by three, its top three bits lost (43_finalization.md R151). -/
theorem bitLength_eq_append (total' : BitVec 64) : bitLength total' = total'.extractLsb' 0 61 ++ 0#3 := by
  refine BitVec.eq_of_toNat_eq ?_
  have hlow : (total'.extractLsb' 0 61).toNat = total'.toNat % 2 ^ 61 := by
    rw [BitVec.extractLsb'_toNat, Nat.shiftRight_zero]
  rw [toNat_bitLength, BitVec.toNat_append, hlow, BitVec.toNat_ofNat, Nat.zero_mod, Nat.or_zero, Nat.shiftLeft_eq]
  omega

/-- Settles O51: an addition, a multiplication and a shift by three, each modulo 2^64. -/
theorem bitLengthIsTotalTimesEight : Obligations.BitLengthIsTotalTimesEight := fun total n _ =>
  ⟨toNat_finalTotal total n, toNat_bitLength _, bitLength_eq_append _⟩

theorem paddedLength_of_le {n : Nat} (hn : n ≤ 55) : paddedLength n = 64 := if_pos hn

theorem paddedLength_of_ge {n : Nat} (hn : 56 ≤ n) : paddedLength n = 128 := if_neg (by omega)

/-- For a tail of at most one block the marker always stands before the length (43_finalization.md R152). -/
theorem lt_paddedLength_sub {n : Nat} (hn : n ≤ 64) : n < paddedLength n - 8 := by
  rcases Nat.lt_or_ge n 56 with h | h
  · rw [paddedLength_of_le (by omega)]
    omega
  · rw [paddedLength_of_ge h]
    omega

/-! The stream byte by byte (43_finalization.md R153). -/

theorem padByte_message (b : Vector Byte 64) (l : BitVec 64) {n i : Nat} (hi : i < n) :
    padByte b n l i = byteAt b i := if_pos hi

theorem padByte_marker (b : Vector Byte 64) (n : Nat) (l : BitVec 64) : padByte b n l n = 0x80#8 := by
  simp [padByte]

theorem padByte_zero (b : Vector Byte 64) (l : BitVec 64) {n i : Nat} (hn : n < i) (hi : i < paddedLength n - 8) :
    padByte b n l i = 0#8 := by
  rw [padByte, if_neg (by omega), if_neg (by omega), if_neg (by omega)]

theorem padByte_length (b : Vector Byte 64) (l : BitVec 64) {n j : Nat} (hn : n < paddedLength n - 8) :
    padByte b n l (paddedLength n - 8 + j) = byteAt (be64 l) j := by
  rw [padByte, if_neg (by omega), if_neg (by omega), if_pos (by omega), Nat.add_sub_cancel_left]

/-- The stream reads no byte of the buffer from n on (43_finalization.md R157). -/
theorem padByte_congr {b b' : Vector Byte 64} {n : Nat} (hb : ∀ k, k < n → byteAt b' k = byteAt b k)
    (l : BitVec 64) (i : Nat) : padByte b' n l i = padByte b n l i := by
  unfold padByte
  split
  next hi => exact hb i hi
  next => rfl

/-! Stretches of the stream. -/

/-- The `m` bytes of the padded stream from byte `i` on. -/
def padStretch (b : Vector Byte 64) (n : Nat) (l : BitVec 64) (i m : Nat) : List Byte :=
  (List.range' i m).map (padByte b n l)

/-- A stretch cut in two. -/
theorem padStretch_add (b : Vector Byte 64) (n : Nat) (l : BitVec 64) (i m k : Nat) :
    padStretch b n l i (m + k) = padStretch b n l i m ++ padStretch b n l (i + m) k := by
  rw [padStretch, ← List.range'_append_1, List.map_append]
  rfl

/-- Padded block k is the stretch of 64 bytes at 64 k. -/
theorem toList_padBlock (b : Vector Byte 64) (n : Nat) (l : BitVec 64) (k : Nat) :
    (padBlock b n l k).toList = padStretch b n l (64 * k) 64 := by
  apply List.ext_getElem
  · simp [padStretch]
  · intro i hi hi'
    simp [padStretch, padBlock]

/-- Up to n the stream is the buffer. -/
theorem padStretch_message (b : Vector Byte 64) (l : BitVec 64) {n : Nat} (hn : n ≤ 64) :
    padStretch b n l 0 n = b.toList.take n := by
  apply List.ext_getElem
  · simp [padStretch, hn]
  · intro i hi hi'
    have hin : i < n := by simpa [padStretch] using hi
    simp [padStretch, padByte_message b l hin, byteAt_of_lt b (show i < 64 by omega)]

theorem padStretch_marker (b : Vector Byte 64) (n : Nat) (l : BitVec 64) : padStretch b n l n 1 = [0x80#8] := by
  simp [padStretch, padByte_marker]

/-- Between the marker and the length the stream is zeros. -/
theorem padStretch_zero (b : Vector Byte 64) (l : BitVec 64) {n i m : Nat} (hn : n < i)
    (hm : i + m ≤ paddedLength n - 8) : padStretch b n l i m = List.replicate m 0#8 := by
  refine List.eq_replicate_iff.mpr ⟨by simp [padStretch], fun x hx => ?_⟩
  obtain ⟨j, hj, rfl⟩ := List.mem_map.mp hx
  obtain ⟨hij, hjm⟩ := List.mem_range'_1.mp hj
  exact padByte_zero b l (by omega) (by omega)

/-- The last eight bytes of the stream are the length. -/
theorem padStretch_length (b : Vector Byte 64) (l : BitVec 64) {n i : Nat} (hn : n ≤ 64)
    (hi : i = paddedLength n - 8) : padStretch b n l i 8 = (be64 l).toList := by
  subst hi
  apply List.ext_getElem
  · simp [padStretch]
  · intro j hj hj'
    have hj8 : j < 8 := by simpa [padStretch] using hj
    simp [padStretch, padByte_length b l (lt_paddedLength_sub hn), byteAt_of_lt (be64 l) hj8]

end Sys2Proof.Machine
end

section
/-! SUPPORT. The three shapes of the padded blocks and their compressions (43_finalization.md R154 to R156). -/

namespace Sys2Proof.Machine

/-- One padded block, one compression (43_finalization.md R154). -/
theorem compressPadded_of_le {n : Nat} (hn : n ≤ 55) (s : State) :
    compressPadded n s = compressInState (paddedBlockOf n 0 s) s := by
  rw [compressPadded, paddedLength_of_le hn, if_neg (by decide)]

/-- Two padded blocks, two compressions, both of the blocks of the state before them (43_finalization.md R155, R156). -/
theorem compressPadded_of_ge {n : Nat} (hn : 56 ≤ n) (s : State) :
    compressPadded n s = compressInState (paddedBlockOf n 1 s) (compressInState (paddedBlockOf n 0 s) s) := by
  rw [compressPadded, if_pos (paddedLength_of_ge hn)]

/-- The one padded block: message, marker, zeros, length (43_finalization.md R154). -/
theorem toList_padBlock_one (b : Vector Byte 64) (l : BitVec 64) {n : Nat} (hn : n ≤ 55) :
    (padBlock b n l 0).toList =
      b.toList.take n ++ [0x80#8] ++ List.replicate (55 - n) 0#8 ++ (be64 l).toList := by
  have hlen := paddedLength_of_le hn
  have hcut : 64 = n + 1 + (55 - n) + 8 := by omega
  calc (padBlock b n l 0).toList = padStretch b n l 0 64 := toList_padBlock b n l 0
    _ = padStretch b n l 0 (n + 1 + (55 - n) + 8) := congrArg _ hcut
    _ = _ := by
      rw [padStretch_add, padStretch_add, padStretch_add, Nat.zero_add, padStretch_message b l (by omega),
        padStretch_marker, padStretch_zero b l (by omega) (by omega), padStretch_length b l (by omega) (by omega)]

/-- The first of two blocks with the marker in it: message, marker, zeros (43_finalization.md R155). -/
theorem toList_padBlock_first (b : Vector Byte 64) (l : BitVec 64) {n : Nat} (h56 : 56 ≤ n) (h63 : n ≤ 63) :
    (padBlock b n l 0).toList = b.toList.take n ++ [0x80#8] ++ List.replicate (63 - n) 0#8 := by
  have hlen := paddedLength_of_ge h56
  have hcut : 64 = n + 1 + (63 - n) := by omega
  calc (padBlock b n l 0).toList = padStretch b n l 0 64 := toList_padBlock b n l 0
    _ = padStretch b n l 0 (n + 1 + (63 - n)) := congrArg _ hcut
    _ = _ := by
      rw [padStretch_add, padStretch_add, Nat.zero_add, padStretch_message b l (by omega), padStretch_marker,
        padStretch_zero b l (by omega) (by omega)]

/-- The second of two blocks, the marker in the first: zeros, length (43_finalization.md R155). -/
theorem toList_padBlock_second (b : Vector Byte 64) (l : BitVec 64) {n : Nat} (h56 : 56 ≤ n) (h63 : n ≤ 63) :
    (padBlock b n l 1).toList = List.replicate 56 0#8 ++ (be64 l).toList := by
  have hlen := paddedLength_of_ge h56
  rw [toList_padBlock, padStretch_add b n l (64 * 1) 56 8, padStretch_zero b l (by omega) (by omega),
    padStretch_length b l (by omega) (by omega)]

/-- A full buffer is its own first block (43_finalization.md R156). -/
theorem padBlock_full_first (b : Vector Byte 64) (l : BitVec 64) : padBlock b 64 l 0 = b := by
  refine bytes_ext fun k hk => ?_
  rw [padBlock, byteAt_ofFn _ hk, Nat.mul_zero, Nat.zero_add, padByte_message b l hk]

/-- After a full buffer the second block is all padding: marker, zeros, length (43_finalization.md R156). -/
theorem toList_padBlock_full_second (b : Vector Byte 64) (l : BitVec 64) :
    (padBlock b 64 l 1).toList = [0x80#8] ++ List.replicate 55 0#8 ++ (be64 l).toList := by
  rw [toList_padBlock, padStretch_add b 64 l (64 * 1) (1 + 55) 8, padStretch_add, Nat.mul_one, padStretch_marker,
    padStretch_zero b l (by decide) (by decide), padStretch_length b l (by decide) (by decide)]

/-- Settles O52: the stream of 64 bytes is cut at the marker and at the length. -/
theorem oneBlockPadding : Obligations.OneBlockPadding := fun b _ l hn =>
  ⟨paddedLength_of_le hn, toList_padBlock_one b l hn, compressPadded_of_le hn⟩

/-- Settles O53: of the stream of 128 bytes the first 64 are cut at the marker, the others at the length. -/
theorem twoBlockPadding : Obligations.TwoBlockPadding := fun b _ l h56 h63 =>
  ⟨paddedLength_of_ge h56, toList_padBlock_first b l h56 h63, toList_padBlock_second b l h56 h63,
    compressPadded_of_ge h56⟩

/-- Settles O54: the message fills the first block, so the marker opens the second. -/
theorem fullBlockPadding : Obligations.FullBlockPadding := fun b l =>
  ⟨rfl, padBlock_full_first b l, toList_padBlock_full_second b l, compressPadded_of_ge (by decide)⟩

end Sys2Proof.Machine
end

section
/-! SUPPORT. FINAL's completion (43_finalization.md R157 to R161): it is Finalize, it reads BUF below n alone, and FINAL 64 is BLOCK and then FINAL 0. -/

namespace Sys2Proof.Machine

/-- Finalize over one padded block (43_finalization.md R160). -/
theorem finalize_of_le {n : Nat} (hn : n ≤ 55) (h : Vector Word 8) (b : Vector Byte 64) (total : BitVec 64) :
    finalize h b n total =
      (compress h (padBlock b n (bitLength (finalTotal total n)) 0), finalTotal total n) := by
  simp only [finalize, paddedLength_of_le hn, if_neg (show ¬64 = 128 by decide)]

/-- Finalize over two padded blocks (43_finalization.md R160). -/
theorem finalize_of_ge {n : Nat} (hn : 56 ≤ n) (h : Vector Word 8) (b : Vector Byte 64) (total : BitVec 64) :
    finalize h b n total =
      (compress (compress h (padBlock b n (bitLength (finalTotal total n)) 0))
        (padBlock b n (bitLength (finalTotal total n)) 1), finalTotal total n) := by
  simp only [finalize, paddedLength_of_ge hn, if_true]

/-- The compressions of the padded blocks leave Finalize's H (43_finalization.md R160). -/
theorem compressPadded_eq_finalize (n : Nat) (s : State) :
    compressPadded n s = (s.setH (finalize s.h s.buf n s.total).1).setScratch Scratch.dead := by
  rcases Nat.lt_or_ge n 56 with hn | hn
  · have hn : n ≤ 55 := by omega
    rw [compressPadded_of_le hn, finalize_of_le hn, scratchRunIsCompress _ s]
    rfl
  · rw [compressPadded_of_ge hn, finalize_of_ge hn, scratchRunIsCompress _ s, scratchRunIsCompress]
    rfl

/-- The engine's turn with FINALOP(n) pending, by the pure function Finalize (43_finalization.md R159, R160). -/
theorem engineStep_of_pend_finalOp {s : State} {n : Fin 65} (hp : s.pend = .finalOp n) :
    engineStep s =
      retireFinal n ((s.setH (finalize s.h s.buf n s.total).1).setScratch Scratch.dead) := by
  simp only [engineStep, hp, completeFinal]
  rw [compressPadded_eq_finalize n s]

/-- Settles O23: the engine's event is FINAL's completion, which is Finalize into H and then the retirement, field by field. -/
theorem engineCompletesFinal : Obligations.EngineCompletesFinal := by
  intro s rest n hagenda hp
  have hengine := engineStep_of_pend_finalOp (s := s.setAgenda rest) hp
  refine ⟨_, (step_cons hagenda).trans (congrArg Host.Outcome.next hengine), ?_⟩
  exact ⟨rfl, toNat_finalTotal s.total n, rfl, rfl, rfl, rfl, rfl, rfl, rfl, rfl, rfl, rfl⟩

theorem padBlock_congr {b b' : Vector Byte 64} {n : Nat} (hb : ∀ k, k < n → byteAt b' k = byteAt b k)
    (l : BitVec 64) (k : Nat) : padBlock b' n l k = padBlock b n l k :=
  congrArg Vector.ofFn (funext fun i => padByte_congr hb l (64 * k + i))

/-- Finalize reads the buffer through the padded blocks, so below n alone (43_finalization.md R157). -/
theorem finalize_congr {b b' : Vector Byte 64} {n : Nat} (hb : ∀ k, k < n → byteAt b' k = byteAt b k)
    (h : Vector Word 8) (total : BitVec 64) : finalize h b' n total = finalize h b n total := by
  simp only [finalize, padBlock_congr hb]

/-- Settles O55: completion is Finalize and a retirement that leaves BUF, and Finalize reads BUF below n alone. -/
theorem finalIgnoresTheTailOfBuf : Obligations.FinalIgnoresTheTailOfBuf := by
  intro s b' n hp hb
  rw [engineStep_of_pend_finalOp (s := s.setBuf b') hp, engineStep_of_pend_finalOp hp, State.setBuf_h,
    State.setBuf_buf, State.setBuf_total, finalize_congr hb]
  rfl

/-- The padding block after a full buffer is the one padding block of an empty tail (43_finalization.md R161). -/
theorem padBlock_full_second_eq (b : Vector Byte 64) (l : BitVec 64) : padBlock b 64 l 1 = padBlock b 0 l 0 :=
  Vector.toList_inj.mp ((toList_padBlock_full_second b l).trans (toList_padBlock_one b l (Nat.zero_le 55)).symm)

/-- A full block counted by BLOCK, and an empty tail after it. -/
theorem finalTotal_full (total : BitVec 64) : finalTotal (total + 64#64) 0 = finalTotal total 64 :=
  BitVec.add_zero (total + 64#64)

/-- Finalizing a full buffer is compressing it and finalizing an empty tail (43_finalization.md R161). -/
theorem finalize_full (h : Vector Word 8) (b : Vector Byte 64) (total : BitVec 64) :
    finalize h b 64 total = finalize (compress h b) b 0 (total + 64#64) := by
  rw [finalize_of_ge (by decide), finalize_of_le (by decide), finalTotal_full, padBlock_full_first,
    padBlock_full_second_eq]

/-- FINALOP(n) issued and completed: Finalize of the registers before the issue. -/
theorem engineStep_issue_final (n : Fin 65) (s : State) :
    engineStep (issue (.finalOp n) s) =
      retireFinal n (((issue (.finalOp n) s).setH (finalize s.h s.buf n s.total).1).setScratch Scratch.dead) :=
  engineStep_of_pend_finalOp rfl

/-- Whatever the compressions left in H, the two ways agree in every other register: TOTAL is 64 more, and STATUS shows the last completion. -/
theorem retireFinal_full (h1 h2 : Vector Word 8) (s : State) :
    retireFinal (64 : Fin 65) (((issue (.finalOp 64) s).setH h2).setScratch Scratch.dead) =
      retireFinal (0 : Fin 65)
        (((issue (.finalOp 0) (retireBlock (((issue .blockOp s).setH h1).setScratch Scratch.dead))).setH h2).setScratch
          Scratch.dead) := by
  have htotal := (finalTotal_full s.total).symm
  refine State.eq_of_fields ?_ ?_ htotal rfl ?_ ?_ ?_ ?_ ?_ <;> simp [retireFinal, retireBlock, issue]

/-- FINAL 64 completed against BLOCK and then FINAL 0, issued and completed in turn (43_finalization.md R161). -/
theorem engineStep_final_full (s : State) :
    engineStep (issue (.finalOp 64) s) = engineStep (issue (.finalOp 0) (engineStep (issue .blockOp s))) := by
  have hh : (finalize s.h s.buf (64 : Fin 65) s.total).1 =
      (finalize (compress s.h s.buf) s.buf (0 : Fin 65) (s.total + 64#64)).1 :=
    congrArg Prod.fst (finalize_full s.h s.buf s.total)
  rw [engineStep_of_pend_blockOp (s := issue .blockOp s) rfl, engineStep_issue_final, engineStep_issue_final, hh]
  exact retireFinal_full _ _ s

/-- The engine's turn does not read the agenda. -/
theorem engineStep_setAgenda (s : State) (rest : List Event) :
    engineStep (s.setAgenda rest) = (engineStep s).setAgenda rest := by
  cases hp : s.pend with
  | none => rw [engineStep_of_pend_none hp, engineStep_of_pend_none (s := s.setAgenda rest) hp]
  | blockOp =>
    rw [engineStep_of_pend_blockOp hp, engineStep_of_pend_blockOp (s := s.setAgenda rest) hp]
    rfl
  | finalOp n =>
    rw [engineStep_of_pend_finalOp hp, engineStep_of_pend_finalOp (s := s.setAgenda rest) hp]
    rfl

/-- A well-formed command first on the agenda is the next step. -/
theorem step_command {i : Instr} (hi : i.wellFormed = true) (s : State) (rest : List Event) :
    step (s.setAgenda (command i :: rest)) = exec i (s.setAgenda rest) :=
  stepRunsTheDecodedCommand (s.setAgenda (command i :: rest)) rest (encode i) i rfl (decodeOfEncode i hi)

/-- A command that starts an operation on an idle block, and the engine's turn that completes it. -/
theorem run_operation {i : Instr} {p : Pend} (hi : i.wellFormed = true) (hissue : commandEffect i = issue p)
    {s : State} (hidle : s.status.busy = false) (rest : List Event) :
    Host.Core.run Sys2Proof.core 2 (s.setAgenda ([command i, .engine] ++ rest)) =
      .next ((engineStep (issue p s)).setAgenda rest) := by
  have hcommand : step (s.setAgenda (command i :: .engine :: rest)) =
      .next ((issue p s).setAgenda (.engine :: rest)) := by
    rw [step_command hi, exec_eq, hissue]
    exact whenIdle_idle hidle
  have hengine : step ((issue p s).setAgenda (.engine :: rest)) =
      .next ((engineStep (issue p s)).setAgenda rest) := by
    rw [← engineStep_setAgenda]
    exact step_cons (s := (issue p s).setAgenda (.engine :: rest)) (e := .engine) rfl
  exact (run_succ 1 hcommand).trans ((run_succ 0 hengine).trans (run_zero _))

/-- Settles O56: BLOCK leaves the block idle, so FINAL 0 runs after it, and the two completions are FINAL 64's. -/
theorem final64IsBlockThenFinal0 : Obligations.Final64IsBlockThenFinal0 := by
  intro s rest ⟨hidle, _⟩
  have hfinal (n : BitVec 7) (hn : n.toNat ≤ 64) : commandEffect (.final n) = issue (.finalOp ⟨n.toNat, by omega⟩) :=
    funext (issueFinal_of_le hn)
  have hidle' : (engineStep (issue .blockOp s)).status.busy = false := by
    rw [engineStep_of_pend_blockOp rfl]
    rfl
  refine ⟨_, run_operation (i := .final 64) rfl (hfinal 64 (by decide)) hidle rest, ?_⟩
  have hblock := run_operation (i := .block) rfl rfl hidle ([command (.final 0), .engine] ++ rest)
  have hempty := run_operation (i := .final 0) rfl (hfinal 0 (by decide)) hidle' rest
  refine (run_add 2 2 hblock).trans (hempty.trans ?_)
  exact congrArg (fun t : State => Host.Outcome.next (t.setAgenda rest)) (engineStep_final_full s).symm

end Sys2Proof.Machine
end

section
/-! SUPPORT. The commands that complete within their own transaction: NOP, INIT, CLRERR (44_control.md R171 to R173). -/

namespace Sys2Proof.Machine

/-- Settles O15: NOP's effect is the identity, and a busy block drops it as it drops every command. -/
theorem nopChangesNothing : Obligations.NopChangesNothing :=
  ⟨rfl, fun _ => ⟨whenIdle_idle, whenIdle_busy⟩⟩

/-- On an idle block INIT leaves STATUS as reset does, with no bit set (10_state.md R24, R34). -/
theorem Status.initialise_of_idle {st : Status} (hidle : st.busy = false) :
    st.initialise = State.reset.status := by
  simp [Status.initialise, State.reset, hidle]

/-- STATUS reads 0 after reset (10_state.md R34). -/
theorem Status.word_reset : State.reset.status.word = 0#32 := rfl

/-- A second INIT changes nothing more (44_control.md R172). -/
theorem initialise_initialise (s : State) : initialise (initialise s) = initialise s := rfl

/-- Settles O16: INIT's effect field by field, and its effect twice is its effect; a busy block drops it. -/
theorem initStartsANewDigest : Obligations.InitStartsANewDigest := by
  refine ⟨rfl, fun s => ⟨fun hidle => ?_, whenIdle_busy⟩⟩
  have hstatus : (initialise s).status = State.reset.status := Status.initialise_of_idle hidle
  have hword : (initialise s).status.word = 0#32 := by rw [hstatus, Status.word_reset]
  have hagain : exec .init (initialise s) = .next (initialise s) :=
    (whenIdle_idle (s := initialise s) hidle).trans (congrArg Host.Outcome.next (initialise_initialise s))
  exact ⟨initialise s, whenIdle_idle hidle, rfl, rfl, hidle, rfl, rfl, rfl, hword, rfl, rfl, rfl,
    ⟨rfl, rfl, rfl⟩, hagain⟩

/-- With no error recorded there is nothing to clear: ERR and ECODE are what CLRERR would write (44_control.md R173). -/
theorem clearError_of_no_error {s : State} (herr : s.status.err = false) (hcode : s.status.ecode = none) :
    clearError s = s := by
  have hstatus : s.status.clearError = s.status := by
    rw [Status.clearError, ← herr, ← hcode]
  rw [clearError, hstatus, State.setStatus_self]

/-- Settles O17: CLRERR's effect field by field; a busy block drops it, and the error recorded keeps an earlier code. -/
theorem clrerrClearsTheErrorRecord : Obligations.ClrerrClearsTheErrorRecord := by
  refine ⟨rfl, fun s => ⟨fun hidle => ?_, fun hbusy => ?_⟩⟩
  · exact ⟨clearError s, whenIdle_idle hidle, rfl, rfl, rfl, rfl, rfl, rfl, rfl, rfl, rfl, ⟨rfl, rfl, rfl⟩,
      clearError_of_no_error⟩
  · refine ⟨_, whenIdle_busy hbusy, rfl, Status.raise_err s.status .busyWrite, fun herr => ?_⟩
    exact (Status.raise_ecode s.status .busyWrite).trans (if_pos herr)

end Sys2Proof.Machine
end

section
/-! SUPPORT. No trap and no stop (60_exceptions.md R190, R196): a command, a transaction and a step each answer a next state. -/

namespace Sys2Proof.Machine

theorem exec_answers_next (i : Instr) (s : State) : ∃ t, exec i s = .next t := by
  rcases whenIdle_cases (commandEffect i) s with ⟨_, hguard⟩ | ⟨_, hguard⟩
  · exact ⟨_, (exec_eq i s).trans hguard⟩
  · exact ⟨_, (exec_eq i s).trans hguard⟩

theorem transact_answers_next (x : Txn) (s : State) : ∃ t, transact x s = .next t := by
  cases x with
  | read off size => exact ⟨_, rfl⟩
  | write off size v =>
    rcases busWrite_outcome_cases off size v s with ⟨c, hwrite⟩ | ⟨_, ⟨i, hwrite⟩ | hwrite⟩
    · exact ⟨_, hwrite⟩
    · obtain ⟨t, hexec⟩ := exec_answers_next i s
      exact ⟨t, hwrite.trans hexec⟩
    · exact ⟨_, hwrite⟩

/-- Settles O10: the transaction is answered, and the engine's turn and the reset have no other outcome. -/
theorem everyStepAnswersNext : Obligations.EveryStepAnswersNext := by
  intro s
  cases hagenda : s.agenda with
  | nil => exact ⟨_, step_nil hagenda⟩
  | cons e rest =>
    rw [step_cons hagenda]
    cases e with
    | bus x => exact transact_answers_next x (s.setAgenda rest)
    | engine => exact ⟨_, rfl⟩
    | reset => exact ⟨_, rfl⟩

end Sys2Proof.Machine
end

section
/-! SUPPORT. The register map (20_memory.md R51) by the offsets of each region, and the regions the check names by their offsets. -/

namespace Sys2Proof.Machine

/-- The offsets of a region, as R51's table lists them. -/
def Region.Covers : Region → Nat → Prop
  | .buf, o => o ≤ 0x3F
  | .cmd, o => 0x40 ≤ o ∧ o ≤ 0x43
  | .status, o => 0x44 ≤ o ∧ o ≤ 0x47
  | .totalLo, o => 0x48 ≤ o ∧ o ≤ 0x4B
  | .totalHi, o => 0x4C ≤ o ∧ o ≤ 0x4F
  | .id, o => 0x50 ≤ o ∧ o ≤ 0x53
  | .h, o => 0x60 ≤ o ∧ o ≤ 0x7F
  | .digest, o => 0x80 ≤ o ∧ o ≤ 0x9F
  | .unmapped, o => (0x54 ≤ o ∧ o ≤ 0x5F) ∨ 0xA0 ≤ o

/-- An offset is in the range its region lists. -/
theorem region_covers (off : BitVec 8) : (region off).Covers off.toNat := by
  simp only [region]
  split_ifs <;> simp only [Region.Covers] <;> omega

/-- No two regions list the same offset. -/
theorem Region.Covers.unique {r r' : Region} {o : Nat} (h : r.Covers o) (h' : r'.Covers o) : r = r' := by
  cases r <;> cases r' <;> simp only [Region.Covers, reduceCtorEq] at h h' ⊢ <;> omega

theorem region_eq_iff (off : BitVec 8) (r : Region) : region off = r ↔ r.Covers off.toNat :=
  ⟨fun h => h ▸ region_covers off, (region_covers off).unique⟩

theorem Region.byteWide_iff (r : Region) : r.byteWide = true ↔ r = .buf ∨ r = .digest := by
  cases r <;> decide

theorem Region.readOnly_iff (r : Region) : r.readOnly = true ↔ r = .status ∨ r = .id ∨ r = .digest := by
  cases r <;> decide

/-- BUF and DIGEST (20_memory.md R65). -/
theorem byteWide_region_iff (off : BitVec 8) :
    (region off).byteWide = true ↔ off.toNat ≤ 0x3F ∨ (0x80 ≤ off.toNat ∧ off.toNat ≤ 0x9F) :=
  (Region.byteWide_iff _).trans (or_congr (region_eq_iff off .buf) (region_eq_iff off .digest))

/-- STATUS, ID and DIGEST (60_exceptions.md R194, line 5). -/
theorem readOnly_region_iff (off : BitVec 8) :
    (region off).readOnly = true ↔ (0x44 ≤ off.toNat ∧ off.toNat ≤ 0x47) ∨
      (0x50 ≤ off.toNat ∧ off.toNat ≤ 0x53) ∨ (0x80 ≤ off.toNat ∧ off.toNat ≤ 0x9F) :=
  (Region.readOnly_iff _).trans
    (or_congr (region_eq_iff off .status) (or_congr (region_eq_iff off .id) (region_eq_iff off .digest)))

end Sys2Proof.Machine
end

section
/-! SUPPORT. The transaction check's verdicts (60_exceptions.md R194, R195). -/

namespace Sys2Proof.Machine

/-- What lines 1 and 2 of the check let through. -/
def Sized (off : BitVec 8) (size : Nat) : Prop :=
  (size = 1 ∨ size = 4) ∧ (size = 4 → off.toNat % 4 = 0)

/-- The check refuses with the code of the first line that applies: each line refuses what it names and hands the rest to the next one. -/
theorem check_eq_some_iff (s : State) (off : BitVec 8) (size : Nat) (dir : Dir) (v : Word) (c : ErrorCode) :
    check s off size dir v = some c ↔
      (¬Sized off size ∧ c = .badSize) ∨ Sized off size ∧
      ((region off = .unmapped ∧ c = .badOffset) ∨ ¬region off = .unmapped ∧
      ((size = 1 ∧ ¬(region off).byteWide = true ∧ c = .badSize) ∨ (size = 1 → (region off).byteWide = true) ∧
      dir = .write ∧
      (((region off).readOnly = true ∧ c = .roWrite) ∨ ¬(region off).readOnly = true ∧
      ((s.status.busy = true ∧ c = .busyWrite) ∨ s.status.busy = false ∧
      region off = .cmd ∧ legalCmd v = false ∧ c = .illegalCmd)))) := by
  unfold check
  split_ifs <;> grind [Sized]

/-- The check passes what no line names; `check_none_iff` in the terms of `check_eq_some_iff`. -/
theorem check_eq_none_iff (s : State) (off : BitVec 8) (size : Nat) (dir : Dir) (v : Word) :
    check s off size dir v = none ↔
      Sized off size ∧ ¬region off = .unmapped ∧ (size = 1 → (region off).byteWide = true) ∧
      (dir = .write → ¬(region off).readOnly = true ∧ s.status.busy = false ∧
        (region off = .cmd → legalCmd v = true)) := by
  simp only [check_none_iff, Sized, and_assoc, ne_eq, Bool.not_eq_true]

/-- Settles O28: line by line on R51's offsets. An illegal command is never a write to a read-only register, so line 7 need not say that line 5 passed. -/
theorem checkReportsTheFirstCause : Obligations.CheckReportsTheFirstCause := by
  intro s off size dir v o sized unmapped byteWide readOnly isCmd legal
  have hsized : Sized off size ↔ sized := Iff.rfl
  have hunmapped : region off = .unmapped ↔ unmapped := region_eq_iff off .unmapped
  have hwide : (region off).byteWide = true ↔ byteWide := byteWide_region_iff off
  have hreadOnly : (region off).readOnly = true ↔ readOnly := readOnly_region_iff off
  have hcmd : region off = .cmd ↔ isCmd := region_eq_iff off .cmd
  have hlegal : legal ↔ sized ∧ ¬unmapped ∧ (size = 1 → byteWide) := Iff.rfl
  have hwritable : isCmd → ¬readOnly := by omega
  simp only [check_eq_some_iff, check_eq_none_iff, hsized, hunmapped, hwide, hreadOnly, hcmd, hlegal,
    reduceCtorEq, and_true, and_false, or_false, false_or, true_and, and_assoc]
  constructor
  · exact or_congr_right' fun hpassed => and_iff_right (not_not.mp hpassed)
  · constructor
    · rintro ⟨hsize, hmapped, hbyte, hdir, _, hcommand⟩
      exact ⟨hsize, hmapped, hbyte, hdir, hcommand⟩
    · rintro ⟨hsize, hmapped, hbyte, hdir, hidle, hoff, hword⟩
      exact ⟨hsize, hmapped, hbyte, hdir, hwritable hoff, hidle, hoff, hword⟩

end Sys2Proof.Machine
end

section
/-! SUPPORT. The error record over one step (60_exceptions.md R192): what keeps it, and the commands and the reset that clear it. -/

namespace Sys2Proof.Machine

/-- ERR and ECODE are the same in both states. -/
def SameError (s t : State) : Prop := t.status.err = s.status.err ∧ t.status.ecode = s.status.ecode

/-- A later error changes nothing. -/
theorem raiseError_of_err {s : State} (herr : s.status.err = true) (c : ErrorCode) : raiseError c s = s := by
  have hstatus : s.status.raise c = s.status := if_pos herr
  rw [raiseError, hstatus, State.setStatus_self]

theorem sameError_raiseError {s : State} (herr : s.status.err = true) (c : ErrorCode) :
    SameError s (raiseError c s) := by
  rw [raiseError_of_err herr]
  exact ⟨rfl, rfl⟩

/-- Of the commands only INIT and CLRERR clear the record (44_control.md R172, R173). -/
theorem sameError_commandEffect {s : State} (herr : s.status.err = true) (i : Instr) :
    SameError s (commandEffect i s) ∨ i = .init ∨ i = .clrerr := by
  cases i with
  | nop => exact .inl ⟨rfl, rfl⟩
  | init => exact .inr (.inl rfl)
  | block => exact .inl ⟨rfl, rfl⟩
  | final n =>
    left
    rw [commandEffect]
    rcases Nat.lt_or_ge 64 n.toNat with hn | hn
    · rw [issueFinal_of_gt hn]
      exact sameError_raiseError herr .illegalCmd
    · rw [issueFinal_of_le hn]
      exact ⟨rfl, rfl⟩
  | clrerr => exact .inr (.inr rfl)

theorem sameError_exec {s t : State} {i : Instr} (herr : s.status.err = true) (h : exec i s = .next t) :
    SameError s t ∨ i = .init ∨ i = .clrerr := by
  rcases exec_next_cases h with ⟨_, rfl⟩ | ⟨_, rfl⟩
  · exact .inl (sameError_raiseError herr .busyWrite)
  · exact sameError_commandEffect herr i

theorem sameError_busRead {s : State} (herr : s.status.err = true) (off : BitVec 8) (size : Nat) :
    SameError s (busRead off size s).2 := by
  rcases busRead_state_cases off size s with hread | hread | ⟨c, hread⟩ <;> rw [hread]
  · exact ⟨rfl, rfl⟩
  · exact ⟨rfl, rfl⟩
  · exact sameError_raiseError herr c

/-- A write to CMD that passes the check is a word at CMD's own offset: bytes are refused there, and so is a misaligned word. -/
theorem eq_cmdOffset_of_check {s : State} {off : BitVec 8} {size : Nat} {v : Word}
    (hcheck : check s off size .write v = none) (hcmd : region off = .cmd) : off = 0x40#8 ∧ size = 4 := by
  obtain ⟨hsize, haligned, _, hbyte, _⟩ := (check_none_iff ..).mp hcheck
  have hword : size = 4 := hsize.resolve_left fun h => absurd (hbyte h) (by rw [hcmd]; decide)
  obtain ⟨hlow, hhigh⟩ := (region_eq_iff off .cmd).mp hcmd
  have hmod := haligned hword
  exact ⟨by bv_omega, hword⟩

/-- A write clears the record only as INIT's or CLRERR's command word. -/
theorem sameError_busWrite {s t : State} {off : BitVec 8} {size : Nat} {v : Word} (herr : s.status.err = true)
    (h : busWrite off size v s = .next t) :
    SameError s t ∨ (off = 0x40#8 ∧ size = 4 ∧ (v = encode .init ∨ v = encode .clrerr)) := by
  rcases busWrite_cases off size v s with ⟨c, _, hwrite⟩ | ⟨hcheck, _, hcmd, hwrite⟩ | ⟨_, _, _, hwrite⟩ <;>
    rw [hwrite] at h
  · cases h
    exact .inl (sameError_raiseError herr c)
  · rcases performCommand_cases v s with ⟨i, hdecode, hperform⟩ | ⟨_, hperform⟩ <;> rw [hperform] at h
    · obtain ⟨hoff, hsize⟩ := eq_cmdOffset_of_check hcheck hcmd
      have hv : v = encode i := (encodeOfDecode v i hdecode).2.symm
      rcases sameError_exec herr h with hsame | rfl | rfl
      · exact .inl hsame
      · exact .inr ⟨hoff, hsize, .inl hv⟩
      · exact .inr ⟨hoff, hsize, .inr hv⟩
    · cases h
      exact .inl (sameError_raiseError herr .illegalCmd)
  · cases h
    obtain ⟨hstatus, _⟩ := writeReg_frame s off size v
    exact .inl ⟨congrArg Status.err hstatus, congrArg Status.ecode hstatus⟩

theorem sameError_engineStep (s : State) : SameError s (engineStep s) := by
  obtain ⟨_, _, _, _, _, herr, hcode⟩ := engineStep_frame s
  exact ⟨herr, hcode⟩

/-- An event keeps the record, or it is the reset, or the CMD write of INIT or CLRERR. -/
theorem sameError_takeEvent {s t : State} {e : Event} (herr : s.status.err = true) (h : takeEvent e s = .next t) :
    SameError s t ∨ e = .reset ∨
      ∃ v, e = .bus (.write 0x40#8 4 v) ∧ (v = encode .init ∨ v = encode .clrerr) := by
  cases e with
  | bus x =>
    cases x with
    | read off size =>
      cases h
      exact .inl (sameError_busRead herr off size)
    | write off size v =>
      rcases sameError_busWrite herr h with hsame | ⟨rfl, rfl, hv⟩
      · exact .inl hsame
      · exact .inr (.inr ⟨v, rfl, hv⟩)
  | engine =>
    cases h
    exact .inl (sameError_engineStep s)
  | reset => exact .inr (.inl rfl)

/-- Settles O30: an error is recorded where there was none, and one recorded is kept by every event but those that clear it. -/
theorem firstErrorIsKept : Obligations.FirstErrorIsKept := by
  refine ⟨fun c s => ⟨fun hclear => ?_, fun herr => raiseError_of_err herr c⟩, fun s t herr hstep => ?_⟩
  · exact ⟨Status.raise_err s.status c, (Status.raise_ecode s.status c).trans (if_neg (by simp [hclear]))⟩
  · cases hagenda : s.agenda with
    | nil =>
      rw [step_nil hagenda] at hstep
      cases hstep
      obtain ⟨hkept, hcode⟩ := sameError_engineStep s
      exact .inl ⟨hkept.trans herr, hcode⟩
    | cons e rest =>
      rw [step_cons hagenda] at hstep
      rcases sameError_takeEvent (s := s.setAgenda rest) herr hstep with ⟨hkept, hcode⟩ | rfl | ⟨v, rfl, hv⟩
      · exact .inl ⟨hkept.trans herr, hcode⟩
      · exact .inr (.inl ⟨rest, rfl⟩)
      · exact .inr (.inr ⟨v, rest, rfl, hv⟩)

end Sys2Proof.Machine
end

section
/-! SUPPORT. The reset input (70_reset_and_hazards.md R220, R221), and the end of a finite run of events (R230, R231). -/

namespace Sys2Proof.Machine

/-- Settles O12: the reset input gives the block the registers of `State.reset`, and what was pending does not enter. -/
theorem resetDiscardsThePendingOperation : Obligations.ResetDiscardsThePendingOperation := by
  intro s rest hagenda
  have hstep : step s = .next (resetBlock (s.setAgenda rest)) := step_cons hagenda
  have hbuf : ∀ k, k < 64 → byteAt (resetBlock (s.setAgenda rest)).buf k = 0#8 := fun k _ => byteAt_replicate k
  exact ⟨_, hstep, rfl, hbuf, rfl, Status.word_reset, rfl, rfl, rfl, rfl, rfl, rfl⟩

/-- A transaction leaves the agenda: only the step takes events from it. -/
theorem transact_agenda {s t : State} {x : Txn} (h : transact x s = .next t) : t.agenda = s.agenda := by
  cases x with
  | read off size =>
    cases h
    exact (undisturbed_busRead off size s).agenda
  | write off size v =>
    rcases busWrite_outcome_cases off size v s with ⟨c, hwrite⟩ | ⟨_, ⟨i, hwrite⟩ | hwrite⟩
    · cases hwrite.symm.trans h
      rfl
    · obtain ⟨_, _, hagenda, _⟩ := exec_frame (hwrite.symm.trans h)
      exact hagenda
    · cases hwrite.symm.trans h
      obtain ⟨_, _, _, hagenda, _⟩ := writeReg_frame s off size v
      exact hagenda

/-- So does every event once it is taken. -/
theorem takeEvent_agenda {s t : State} {e : Event} (h : takeEvent e s = .next t) : t.agenda = s.agenda := by
  cases e with
  | bus x => exact transact_agenda h
  | engine =>
    cases h
    obtain ⟨_, hagenda, _⟩ := engineStep_frame s
    exact hagenda
  | reset =>
    cases h
    rfl

/-- A step with events to come takes the first of them from the agenda. -/
theorem step_agenda {s t : State} {e : Event} {rest : List Event} (hagenda : s.agenda = e :: rest)
    (h : step s = .next t) : t.agenda = rest :=
  takeEvent_agenda ((step_cons hagenda).symm.trans h)

/-- As many steps as there are events empty the agenda, and the invariant holds after them. -/
theorem run_agenda (events : List Event) : ∀ s : State, s.agenda = events → Consistent s →
    ∃ t, Host.Core.run Sys2Proof.core events.length s = .next t ∧ t.agenda = [] ∧ Consistent t := by
  induction events with
  | nil => exact fun s hagenda hs => ⟨s, run_zero s, hagenda, hs⟩
  | cons e rest ih =>
    intro s hagenda hs
    obtain ⟨u, hstep⟩ := everyStepAnswersNext s
    obtain ⟨t, hrun, ht⟩ := ih u (step_agenda hagenda hstep) (stepKeepsConsistent s u hs hstep)
    exact ⟨t, (run_succ _ hstep).trans hrun, ht⟩

/-- A consistent block is idle after the engine's turn: nothing is pending, and BUSY says so. -/
theorem idle_engineStep {s : State} (hs : Consistent s) : Idle (engineStep s) := by
  obtain ⟨_, _, _, _, hpend, _⟩ := engineStep_frame s
  obtain ⟨hbusy, _⟩ := hs.engineStep
  exact ⟨by simpa [hpend] using hbusy, hpend⟩

/-- Settles O25: the events are taken one by one, and the one step more is the engine's turn on an empty agenda. -/
theorem everyProgramEnds : Obligations.EveryProgramEnds := by
  intro s hs
  obtain ⟨u, hrun, hagenda, hu⟩ := run_agenda s.agenda s rfl hs
  obtain ⟨_, hempty, _⟩ := engineStep_frame u
  have hlast := (run_succ 0 (step_nil hagenda)).trans (run_zero (engineStep u))
  exact ⟨engineStep u, (run_add _ 1 hrun).trans hlast, hempty.trans hagenda, idle_engineStep hu⟩

end Sys2Proof.Machine
end

section
/-! SUPPORT. The compressions of each operation (70_reset_and_hazards.md R230). -/

namespace Sys2Proof.Machine

theorem Pend.compressions_finalOp_of_le {n : Fin 65} (hn : n.val ≤ 55) : (Pend.finalOp n).compressions = 1 := if_pos hn

theorem Pend.compressions_finalOp_of_ge {n : Fin 65} (hn : 56 ≤ n.val) : (Pend.finalOp n).compressions = 2 :=
  if_neg (by omega)

/-- FINAL n compresses its padded blocks in order, as many as R230 counts. -/
theorem compressPadded_eq_foldl (n : Fin 65) (s : State) :
    compressPadded n s =
      (List.range (Pend.finalOp n).compressions).foldl (fun u k => compressInState (paddedBlockOf n k s) u) s := by
  rcases Nat.lt_or_ge n.val 56 with hn | hn
  · rw [Pend.compressions_finalOp_of_le (by omega), compressPadded_of_le (by omega), List.range_one, List.foldl_cons,
      List.foldl_nil]
  · rw [Pend.compressions_finalOp_of_ge hn, compressPadded_of_ge hn]
    simp only [List.range_succ, List.range_zero, List.nil_append, List.cons_append, List.foldl_cons, List.foldl_nil]

/-- Settles O27: the engine's turn by what is pending; a FINAL's count is the number of its padded blocks. -/
theorem cyclesFollowTheCompressions : Obligations.CyclesFollowTheCompressions := by
  refine ⟨fun s => ⟨fun hp => ⟨rfl, engineStep_of_pend_none hp⟩, fun hp => ?_, fun n hp => ?_⟩, rfl,
    fun n => ⟨Pend.compressions_finalOp_of_le, Pend.compressions_finalOp_of_ge⟩, Nat.le_add_left 1 _, fun _ => rfl⟩
  · have hone : Pend.blockOp.compressions = 1 := rfl
    rw [hone, Function.iterate_one]
    simp only [engineStep, hp, completeBlock]
  · rw [← compressPadded_eq_foldl]
    simp only [engineStep, hp, completeFinal]

end Sys2Proof.Machine
end

section
/-! SUPPORT. SHA-256 of a whole message (log 16), cut after its full blocks: the rest is FINAL's padding of the tail (43_finalization.md R153, R160). -/

namespace Sys2Proof.Machine

theorem byteAt_blockOf (m : List Byte) {k : Nat} (hk : k < 64) : byteAt (blockOf m) k = m[k]?.getD 0#8 :=
  byteAt_ofFn _ hk

/-- A block reads 64 bytes and no more. -/
theorem blockOf_append {m : List Byte} (hm : 64 ≤ m.length) (x : List Byte) : blockOf (m ++ x) = blockOf m := by
  refine bytes_ext fun k hk => ?_
  rw [byteAt_blockOf _ hk, byteAt_blockOf _ hk, List.getElem?_append_left (by omega)]

theorem blockOf_take (m : List Byte) : blockOf (m.take 64) = blockOf m := by
  refine bytes_ext fun k hk => ?_
  rw [byteAt_blockOf _ hk, byteAt_blockOf _ hk, List.getElem?_take_of_lt hk]

/-- The block at the front of a sequence that begins with a block. -/
theorem blockOf_toList_append (b : Vector Byte 64) (x : List Byte) : blockOf (b.toList ++ x) = b := by
  refine bytes_ext fun k hk => ?_
  rw [blockOf_append (by simp), byteAt_blockOf _ hk, byteAt_of_lt b hk]
  simp [hk]

theorem blockOf_toList (b : Vector Byte 64) : blockOf b.toList = b := by
  simpa using blockOf_toList_append b []

/-- A sequence of at most 64 bytes is the start of its block. -/
theorem take_toList_blockOf {m : List Byte} (hm : m.length ≤ 64) : (blockOf m).toList.take m.length = m := by
  apply List.ext_getElem
  · simp [hm]
  · intro i hi hi'
    simp [blockOf, hi']

/-- Blocks within `m` do not see what follows it. -/
theorem hashBlocks_append (x : List Byte) : ∀ (q : Nat) (m : List Byte) (h : Vector Word 8),
    64 * q ≤ m.length → hashBlocks q (m ++ x) h = hashBlocks q m h
  | 0, _, _, _ => rfl
  | q + 1, m, h, hm => by
    rw [hashBlocks, hashBlocks, blockOf_append (by omega), List.drop_append_of_le_length (by omega),
      hashBlocks_append x q _ _ (by rw [List.length_drop]; omega)]

/-- Blocks in order: the first q, then the others from where those end. -/
theorem hashBlocks_add (k : Nat) : ∀ (q : Nat) (m : List Byte) (h : Vector Word 8),
    hashBlocks (q + k) m h = hashBlocks k (m.drop (64 * q)) (hashBlocks q m h)
  | 0, m, h => by rw [Nat.zero_add, Nat.mul_zero, List.drop_zero, hashBlocks]
  | q + 1, m, h => by
    rw [Nat.add_right_comm, hashBlocks, hashBlocks, hashBlocks_add k q, List.drop_drop, Nat.mul_add, Nat.add_comm]

/-- The whole padded stream of a tail shorter than a block: the fewest zeros that fill its last block (43_finalization.md R153). -/
theorem padStretch_all (b : Vector Byte 64) (l : BitVec 64) {n : Nat} (hn : n < 64) :
    padStretch b n l 0 (paddedLength n) =
      b.toList.take n ++ [0x80#8] ++ List.replicate ((119 - n) % 64) 0#8 ++ (be64 l).toList := by
  have hcut : paddedLength n = n + 1 + (119 - n) % 64 + 8 := by
    rw [paddedLength]
    split <;> omega
  calc padStretch b n l 0 (paddedLength n) = padStretch b n l 0 (n + 1 + (119 - n) % 64 + 8) := congrArg _ hcut
    _ = _ := by
      rw [padStretch_add, padStretch_add, padStretch_add, Nat.zero_add, padStretch_message b l (by omega),
        padStretch_marker, padStretch_zero b l (by omega) (by omega), padStretch_length b l (by omega) (by omega)]

/-- Compressing the one or two blocks of the padded stream is Finalize (43_finalization.md R160). -/
theorem hashBlocks_padStretch (h : Vector Word 8) (b : Vector Byte 64) (n : Nat) (total : BitVec 64) :
    hashBlocks (paddedLength n / 64) (padStretch b n (bitLength (finalTotal total n)) 0 (paddedLength n)) h =
      (finalize h b n total).1 := by
  generalize hl : bitLength (finalTotal total n) = l
  have hfirst : padStretch b n l 0 64 = (padBlock b n l 0).toList := (toList_padBlock b n l 0).symm
  rcases Nat.lt_or_ge n 56 with hn | hn
  · have hn : n ≤ 55 := by omega
    rw [paddedLength_of_le hn, finalize_of_le hn, hl, hfirst]
    simp only [hashBlocks, blockOf_toList, Nat.reduceDiv]
  · have hboth : padStretch b n l 0 128 = (padBlock b n l 0).toList ++ (padBlock b n l 1).toList := by
      rw [padStretch_add b n l 0 64 64, hfirst, toList_padBlock b n l 1]
    have hdrop : ((padBlock b n l 0).toList ++ (padBlock b n l 1).toList).drop 64 = (padBlock b n l 1).toList :=
      List.drop_left' (by simp)
    rw [paddedLength_of_ge hn, finalize_of_ge hn, hl, hboth]
    simp only [hashBlocks, Nat.reduceDiv, blockOf_toList_append, hdrop, blockOf_toList]

/-- TOTAL' times 8, the full blocks counted by BLOCK and the tail by FINAL, is the message's length in bits (43_finalization.md R151). -/
theorem bitLength_message (m : List Byte) :
    bitLength (finalTotal (BitVec.ofNat 64 (64 * (m.length / 64))) (m.length % 64)) =
      BitVec.ofNat 64 (8 * m.length) := by
  apply BitVec.eq_of_toNat_eq
  rw [toNat_bitLength, toNat_finalTotal, BitVec.toNat_ofNat, BitVec.toNat_ofNat]
  omega

/-- After its full blocks the padded message is the padded stream of the tail. -/
theorem drop_padMessage (m : List Byte) :
    (padMessage m).drop (64 * (m.length / 64)) =
      padStretch (blockOf (m.drop (64 * (m.length / 64)))) (m.length % 64) (BitVec.ofNat 64 (8 * m.length)) 0
        (paddedLength (m.length % 64)) := by
  have hlen : m.length % 64 = (m.drop (64 * (m.length / 64))).length := by
    rw [List.length_drop]
    omega
  have htail : (blockOf (m.drop (64 * (m.length / 64)))).toList.take (m.length % 64) =
      m.drop (64 * (m.length / 64)) := by
    rw [hlen]
    exact take_toList_blockOf (by omega)
  rw [padStretch_all _ _ (by omega), htail, padMessage]
  simp only [List.append_assoc]
  exact List.drop_append_of_le_length (by omega)

theorem length_padMessage (m : List Byte) :
    (padMessage m).length / 64 = m.length / 64 + paddedLength (m.length % 64) / 64 := by
  simp only [padMessage, List.length_append, List.length_replicate, List.length_singleton, Vector.length_toList,
    paddedLength]
  split <;> omega

/-- SHA-256 of a message: its full blocks compressed in order, then Finalize on the tail. -/
theorem sha256_eq_finalize (m : List Byte) :
    sha256 m = (finalize (hashBlocks (m.length / 64) m iv) (blockOf (m.drop (64 * (m.length / 64)))) (m.length % 64)
      (BitVec.ofNat 64 (64 * (m.length / 64)))).1 := by
  have hfull : hashBlocks (m.length / 64) (padMessage m) iv = hashBlocks (m.length / 64) m iv := by
    rw [padMessage, List.append_assoc, List.append_assoc]
    exact hashBlocks_append _ _ m iv (by omega)
  rw [sha256, length_padMessage, hashBlocks_add, hfull, drop_padMessage, ← bitLength_message, hashBlocks_padStretch]

end Sys2Proof.Machine
end

section
/-! SUPPORT. Host programs as sequences of events (30_encoding.md R88, R89): a rule for each line, and for one after another. -/

namespace Sys2Proof.Machine

/-- The events of `prog`, whatever stands on the agenda after them, take the block from `s` to `t`. What is on the agendas of `s` and `t` themselves plays no part. -/
def Runs (prog : List Event) (s t : State) : Prop :=
  ∀ rest, Host.Core.run Sys2Proof.core prog.length (s.setAgenda (prog ++ rest)) = .next (t.setAgenda rest)

theorem runs_nil (s : State) : Runs [] s s := fun _ => run_zero _

/-- One program after another. -/
theorem Runs.append {p q : List Event} {s t u : State} (hp : Runs p s t) (hq : Runs q t u) : Runs (p ++ q) s u := by
  intro rest
  rw [List.length_append, List.append_assoc, run_add _ _ (hp (q ++ rest)), hq rest]

/-- One event. -/
theorem runs_event {e : Event} {s t : State} (h : ∀ rest, takeEvent e (s.setAgenda rest) = .next (t.setAgenda rest)) :
    Runs [e] s t := by
  intro rest
  have hstep : step (s.setAgenda ([e] ++ rest)) = .next (t.setAgenda rest) := (step_cons rfl).trans (h rest)
  exact (run_succ 0 hstep).trans (run_zero _)

/-- `wr8` into BUF of an idle block (20_memory.md R54). -/
theorem runs_wr8 {s : State} (hidle : s.status.busy = false) {k : Nat} (hk : k < 64) (x : Byte) :
    Runs [wr8 k (x.setWidth 32)] s (s.setBuf (s.buf.setIfInBounds k x)) := by
  refine runs_event fun rest => ?_
  have hregion := region_bufOffset hk
  have hread := check_read_byte (s.setAgenda rest) (off := BitVec.ofNat 8 k) (by rw [hregion]; rfl) 0#32
  have hbyte : (x.setWidth 32).extractLsb' 0 8 = x := by
    rw [BitVec.extractLsb'_setWidth_of_le (by omega), BitVec.extractLsb'_eq_self]
  refine (transact_write_idle (s := s.setAgenda rest) hidle hread (by rw [hregion]; rfl) (x.setWidth 32)).trans ?_
  rw [writeReg_buf_byte _ hk, hbyte]
  rfl

/-- `wr32` into BUF of an idle block (20_memory.md R55). -/
theorem runs_wr32 {s : State} (hidle : s.status.busy = false) {k : Nat} (hk : k < 64) (haligned : k % 4 = 0) (v : Word) :
    Runs [wr32 k v] s (s.setBuf (storeWord s.buf k v)) := by
  refine runs_event fun rest => ?_
  have hregion := region_bufOffset hk
  have hread := check_read_word (s.setAgenda rest) (off := BitVec.ofNat 8 k)
    (by rw [toNat_offset (by omega)]; exact haligned) (by simp [hregion]) 0#32
  refine (transact_write_idle (s := s.setAgenda rest) hidle hread (by rw [hregion]; rfl) v).trans ?_
  rw [writeReg_buf_word _ hk]
  rfl

/-- The effect of a command does not read the agenda. -/
theorem commandEffect_setAgenda (i : Instr) (s : State) (rest : List Event) :
    commandEffect i (s.setAgenda rest) = (commandEffect i s).setAgenda rest := by
  cases i with
  | nop | init | block | clrerr => rfl
  | final n =>
    simp only [commandEffect, issueFinal]
    split <;> rfl

/-- A well-formed command on an idle block. -/
theorem runs_command {i : Instr} (hi : i.wellFormed = true) {s : State} (hidle : s.status.busy = false) :
    Runs [command i] s (commandEffect i s) := by
  refine runs_event fun rest => ?_
  have hexec : takeEvent (command i) (s.setAgenda rest) = exec i (s.setAgenda rest) :=
    transact_command (decodeOfEncode i hi) (s.setAgenda rest)
  rw [hexec, exec_eq, whenIdle_idle (s := s.setAgenda rest) hidle, commandEffect_setAgenda]

theorem runs_engine (s : State) : Runs [.engine] s (engineStep s) :=
  runs_event fun rest => congrArg Host.Outcome.next (engineStep_setAgenda s rest)

/-- A read of STATUS, on an idle block or a busy one (20_memory.md R58). -/
theorem runs_read_status (s : State) : Runs [rd32 0x44] s (reply s.status.word s) :=
  runs_event fun rest => transact_read_status (s.setAgenda rest)

/-- A read of H[i] on an idle block, whatever was noted before it (20_memory.md R56). -/
theorem runs_read_h {s : State} (hidle : s.status.busy = false) {i : Nat} (hi : i < 8) (rs : List Word) :
    Runs [rd32 (0x60 + 4 * i)] (s.setReplies rs) (s.setReplies (wordAt s.h i :: rs)) :=
  runs_event fun rest => (hWordAccess ((s.setReplies rs).setAgenda rest) i hi hidle).1

/-- The reads of a poll add replies and change nothing else. -/
theorem runs_status_reads : ∀ (waits : Nat) (s : State),
    ∃ rs, Runs (List.replicate waits (rd32 0x44)) s (s.setReplies rs)
  | 0, s => ⟨s.replies, runs_nil s⟩
  | waits + 1, s => by
    obtain ⟨rs, hreads⟩ := runs_status_reads waits (reply s.status.word s)
    exact ⟨rs, (runs_read_status s).append hreads⟩

/-- `poll` (30_encoding.md R89): the engine's turn, with replies noted before and after it. -/
theorem runs_poll (waits : Nat) (s : State) :
    ∃ before after, Runs (poll waits) s ((engineStep (s.setReplies before)).setReplies after) := by
  obtain ⟨before, hreads⟩ := runs_status_reads waits s
  exact ⟨before, _, hreads.append ((runs_engine _).append (runs_read_status _))⟩

/-- The words of H from i = 0 on, as `rddigest` reads them: newest first among the replies. -/
theorem runs_read_hs {s : State} (hidle : s.status.busy = false) : ∀ n, n ≤ 8 →
    Runs ((List.range n).map fun i => rd32 (0x60 + 4 * i)) s
      (s.setReplies (((List.range n).map (wordAt s.h)).reverse ++ s.replies))
  | 0, _ => runs_nil s
  | n + 1, hn => by
    have hlast := (runs_read_hs hidle n (by omega)).append (runs_read_h hidle (i := n) (by omega) _)
    simpa [List.range_succ] using hlast

/-- `rddigest` (30_encoding.md R89): the last eight replies are H[0..7]. -/
theorem runs_rddigest {s : State} (hidle : s.status.busy = false) :
    Runs rddigest s (s.setReplies (s.h.toList.reverse ++ s.replies)) := by
  have hwords : (List.range 8).map (wordAt s.h) = s.h.toList := by
    apply List.ext_getElem
    · simp
    · intro i hi hi'
      simp only [Vector.length_toList] at hi'
      simp [wordAt_of_lt s.h hi']
  rw [← hwords]
  exact runs_read_hs hidle 8 (Nat.le_refl 8)

end Sys2Proof.Machine
end

section
/-! SUPPORT. `ldbuf` (30_encoding.md R89): its words and bytes together are the bytes it was given, stored one after another. -/

namespace Sys2Proof.Machine

/-- The bytes stored into BUF one after another, from offset `off` on. -/
def storeBytes (b : Vector Byte 64) (off : Nat) : List Byte → Vector Byte 64
  | [] => b
  | x :: rest => storeBytes (b.setIfInBounds off x) (off + 1) rest

/-- The first four bytes stored are one word stored big-endian (20_memory.md R55). -/
theorem storeBytes_word (b : Vector Byte 64) (off : Nat) (b0 b1 b2 b3 : Byte) (rest : List Byte) :
    storeBytes b off (b0 :: b1 :: b2 :: b3 :: rest) =
      storeBytes (storeWord b off (b0 ++ b1 ++ b2 ++ b3)) (off + 4) rest := by
  obtain ⟨h0, h1, h2, h3⟩ := extractLsb'_append_bytes b0 b1 b2 b3
  simp only [storeBytes, storeWord, byteOf, Nat.reduceSub, Nat.reduceMul, h0, h1, h2, h3, Nat.add_assoc, Nat.reduceAdd]

/-- A byte below the stored ones is as before; the others, where they were stored, are theirs. -/
theorem byteAt_storeBytes (k : Nat) : ∀ (bytes : List Byte) (b : Vector Byte 64) (off : Nat), off + bytes.length ≤ 64 →
    byteAt (storeBytes b off bytes) k = if off ≤ k then bytes[k - off]?.getD (byteAt b k) else byteAt b k
  | [], b, off, _ => by simp [storeBytes]
  | x :: rest, b, off, hfit => by
    have hlen : off + 1 + rest.length ≤ 64 := by
      rw [List.length_cons] at hfit
      omega
    rw [storeBytes, byteAt_storeBytes k rest _ (off + 1) hlen, byteAt_set _ _ _ _ (by omega)]
    rcases Nat.lt_trichotomy k off with hk | rfl | hk
    · rw [if_neg (by omega), if_neg (by omega), if_neg (by omega)]
    · simp
    · rw [if_pos (by omega), if_neg (by omega), if_pos (by omega), show k - off = (k - (off + 1)) + 1 by omega,
        List.getElem?_cons_succ]

/-- Loaded from offset 0, the bytes are the start of the buffer. -/
theorem byteAt_storeBytes_zero (b : Vector Byte 64) {bytes : List Byte} (hfit : bytes.length ≤ 64) {k : Nat}
    (hk : k < bytes.length) : byteAt (storeBytes b 0 bytes) k = byteAt (blockOf bytes) k := by
  rw [byteAt_storeBytes k bytes b 0 (by omega), byteAt_blockOf bytes (by omega)]
  simp [hk]

/-- A full load leaves nothing of the old buffer. -/
theorem storeBytes_full (b : Vector Byte 64) {bytes : List Byte} (hfull : bytes.length = 64) :
    storeBytes b 0 bytes = blockOf bytes :=
  bytes_ext fun _ hk => byteAt_storeBytes_zero b (by omega) (by omega)

theorem runs_loadBytes : ∀ (bytes : List Byte) (off : Nat) (s : State), off + bytes.length ≤ 64 →
    s.status.busy = false → Runs (loadBytes off bytes) s (s.setBuf (storeBytes s.buf off bytes))
  | [], _, s, _, _ => runs_nil s
  | x :: rest, off, s, hfit, hidle => by
    rw [List.length_cons] at hfit
    exact (runs_wr8 hidle (by omega) x).append (runs_loadBytes rest (off + 1) _ (by omega) hidle)

/-- `ldbuf` on an idle block stores its bytes; the words it writes store four at a time. -/
theorem runs_ldbuf (off : Nat) (bytes : List Byte) (s : State) (hfit : off + bytes.length ≤ 64)
    (hidle : s.status.busy = false) : Runs (ldbuf off bytes) s (s.setBuf (storeBytes s.buf off bytes)) := by
  induction off, bytes using ldbuf.induct generalizing s with
  | case1 off b0 b1 b2 b3 rest haligned ih =>
    simp only [List.length_cons] at hfit
    have hword := runs_wr32 hidle (by omega) haligned (b0 ++ b1 ++ b2 ++ b3)
    rw [ldbuf, if_pos haligned, storeBytes_word]
    have hrest := ih (s.setBuf (storeWord s.buf off (b0 ++ b1 ++ b2 ++ b3))) (by omega) hidle
    rw [State.setBuf_buf, State.setBuf_setBuf] at hrest
    exact hword.append hrest
  | case2 off b0 b1 b2 b3 rest hoff =>
    rw [ldbuf, if_neg hoff]
    exact runs_loadBytes _ off s hfit hidle
  | case3 off bytes hshort =>
    rw [ldbuf.eq_2 off bytes hshort]
    exact runs_loadBytes _ off s hfit hidle

end Sys2Proof.Machine
end

section
/-! SUPPORT. The host protocol (70_reset_and_hazards.md R223): INIT, each full block in turn, FINAL on the tail, and the words of H. -/

namespace Sys2Proof.Machine

/-- Between the operations of one message: an idle block with no DONE and no error, the words so far in H and the bytes so far in TOTAL. -/
structure Hashing (h : Vector Word 8) (total : BitVec 64) (s : State) : Prop where
  h : s.h = h
  total : s.total = total
  status : s.status = State.reset.status
  pend : s.pend = .none

theorem Hashing.idle {h : Vector Word 8} {total : BitVec 64} {s : State} (hs : Hashing h total s) :
    s.status.busy = false := by
  rw [hs.status]
  rfl

/-- INIT starts a message, whatever the idle block held (44_control.md R172). -/
theorem hashing_initialise {s : State} (hs : Idle s) : Hashing iv 0#64 (initialise s) := by
  obtain ⟨hidle, hpend⟩ := hs
  exact ⟨rfl, rfl, Status.initialise_of_idle hidle, hpend⟩

/-- A command that issues an operation, and the poll until it is completed. -/
theorem runs_operation {i : Instr} {p : Pend} (hi : i.wellFormed = true) (hissue : commandEffect i = issue p)
    {s : State} (hidle : s.status.busy = false) (waits : Nat) : ∃ before after,
    Runs ([command i] ++ poll waits) s ((engineStep ((issue p s).setReplies before)).setReplies after) := by
  obtain ⟨before, after, hpoll⟩ := runs_poll waits (issue p s)
  have hcommand := runs_command hi hidle
  rw [hissue] at hcommand
  exact ⟨before, after, hcommand.append hpoll⟩

/-- One full block loaded and compressed (42_compression.md R139). -/
theorem runs_feedBlock {h : Vector Word 8} {total : BitVec 64} {s : State} (hs : Hashing h total s) (waits : Nat)
    {m : List Byte} (hm : 64 ≤ m.length) :
    ∃ t, Runs (ldbuf 0 (m.take 64) ++ [command .block] ++ poll waits) s t ∧
      Hashing (compress h (blockOf m)) (total + 64#64) t := by
  have hlen : (m.take 64).length = 64 := List.length_take_of_le hm
  have hload := runs_ldbuf 0 (m.take 64) s (by omega) hs.idle
  rw [storeBytes_full s.buf hlen, blockOf_take] at hload
  obtain ⟨before, after, hoperation⟩ :=
    runs_operation (i := .block) rfl rfl (s := s.setBuf (blockOf m)) hs.idle waits
  rw [engineStep_of_pend_blockOp rfl] at hoperation
  refine ⟨_, by rw [List.append_assoc]; exact hload.append hoperation, ?_⟩
  refine ⟨?_, ?_, ?_, rfl⟩
  · simp [retireBlock, issue, hs.h]
  · simp [retireBlock, issue, hs.total]
  · simp [retireBlock, issue, hs.status, Status.issue, Status.completeBlock, State.reset]

/-- The full blocks of a message, by induction on their number (70_reset_and_hazards.md R223). -/
theorem runs_feedBlocks (waits : Nat → Nat) : ∀ (q k : Nat) (m : List Byte) (h : Vector Word 8) (n : Nat) (s : State),
    Hashing h (BitVec.ofNat 64 n) s → 64 * q ≤ m.length →
    ∃ t, Runs (feedBlocks waits q k m) s t ∧ Hashing (hashBlocks q m h) (BitVec.ofNat 64 (n + 64 * q)) t
  | 0, _, _, _, _, s, hs, _ => ⟨s, runs_nil s, hs⟩
  | q + 1, k, m, h, n, s, hs, hm => by
    obtain ⟨u, hblock, hu⟩ := runs_feedBlock hs (waits k) (m := m) (by omega)
    rw [← BitVec.ofNat_add] at hu
    obtain ⟨t, hrest, ht⟩ := runs_feedBlocks waits q (k + 1) (m.drop 64) _ (n + 64) u hu (by rw [List.length_drop]; omega)
    rw [Nat.add_assoc, Nat.add_comm 64, ← Nat.mul_succ] at ht
    exact ⟨t, hblock.append hrest, ht⟩

/-- The tail loaded and finalized: Finalize sees the bytes loaded and nothing of the buffer above them (43_finalization.md R157, R159). -/
theorem runs_final {h : Vector Word 8} {total : BitVec 64} {s : State} (hs : Hashing h total s) (waits : Nat)
    {tail : List Byte} {n : Nat} (hn : n < 64) (htail : tail.length = n) :
    ∃ t, Runs (ldbuf 0 tail ++ [command (.final (BitVec.ofNat 7 n))] ++ poll waits) s t ∧
      t.h = (finalize h (blockOf tail) n total).1 ∧ t.total = finalTotal total n ∧
      t.status = State.reset.status.completeFinal ∧ t.pend = .none := by
  have hoperand : (BitVec.ofNat 7 n).toNat = n := by
    rw [BitVec.toNat_ofNat]
    omega
  have hissue : commandEffect (.final (BitVec.ofNat 7 n)) = issue (.finalOp ⟨n, by omega⟩) := by
    funext u
    simp only [commandEffect, issueFinal_of_le (show (BitVec.ofNat 7 n).toNat ≤ 64 by omega), hoperand]
  have hload := runs_ldbuf 0 tail s (by omega) hs.idle
  obtain ⟨before, after, hoperation⟩ := runs_operation (i := .final (BitVec.ofNat 7 n))
    (by simp only [Instr.wellFormed, hoperand]; exact decide_eq_true (by omega)) hissue
    (s := s.setBuf (storeBytes s.buf 0 tail)) hs.idle waits
  rw [engineStep_of_pend_finalOp rfl] at hoperation
  have hfinalize : finalize s.h (storeBytes s.buf 0 tail) n s.total = finalize h (blockOf tail) n total := by
    rw [hs.h, hs.total]
    exact finalize_congr (fun k hk => byteAt_storeBytes_zero s.buf (by omega) (by omega)) h total
  refine ⟨_, by rw [List.append_assoc]; exact hload.append hoperation, ?_⟩
  refine ⟨?_, ?_, ?_, rfl⟩
  · simp [retireFinal, issue, hfinalize]
  · simp [retireFinal, issue, hs.total]
  · simp [retireFinal, issue, hs.status, Status.issue, Status.completeFinal]

/-- Settles O57: INIT starts from the IV, each operation compresses the standard's next block, and `rddigest` reads what FINAL left. -/
theorem hostProtocolComputesSha256 : Obligations.HostProtocolComputesSha256 := by
  intro s m waits hs
  have hinit : Runs [command .init] s (initialise s) := runs_command (i := .init) rfl hs.1
  obtain ⟨u, hfeed, hu⟩ := runs_feedBlocks waits (m.length / 64) 0 m iv 0 _ (hashing_initialise hs) (by omega)
  rw [Nat.zero_add] at hu
  obtain ⟨v, hfinal, hh, htotal, hstatus, hpend⟩ := runs_final hu (waits (m.length / 64))
    (tail := m.drop (64 * (m.length / 64))) (Nat.mod_lt m.length (by decide)) (by rw [List.length_drop]; omega)
  have hidle : v.status.busy = false := by
    rw [hstatus]
    rfl
  have hprogram : Runs (messageProgram waits m) s (v.setReplies (v.h.toList.reverse ++ v.replies)) := by
    have hall := hinit.append (hfeed.append (hfinal.append (runs_rddigest hidle)))
    simpa only [messageProgram, List.append_assoc] using hall
  have hrun := hprogram []
  rw [List.append_nil] at hrun
  have hcount : finalTotal (BitVec.ofNat 64 (64 * (m.length / 64))) (m.length % 64) = BitVec.ofNat 64 m.length := by
    rw [finalTotal, ← BitVec.ofNat_add, Nat.div_add_mod]
  refine ⟨_, hrun, hh.trans (sha256_eq_finalize m).symm, htotal.trans hcount, ?_, ⟨rfl, hidle, hpend⟩, ?_⟩
  · exact congrArg Status.word hstatus
  · have hlast : (v.h.toList.reverse ++ v.replies).take 8 = v.h.toList.reverse := List.take_left' (by simp)
    exact (congrArg List.reverse hlast).trans v.h.toList.reverse_reverse

end Sys2Proof.Machine
end
